-- ==== Sys2Proof/Word.lean ====
section
/-! DEFINITION. The word types of the core (00_scope.md R6, R9). -/

namespace Sys2Proof

/-- A register, operand-port, table-entry or result value: XLEN = 64 bits, bit 0 least significant (R6, R9). -/
abbrev Word := BitVec 64

/-- A message byte (R53) or an 8-bit immediate (R71). -/
abbrev Byte := BitVec 8

/-- A command word on CMD (R37, R70). -/
abbrev CmdWord := BitVec 32

end Sys2Proof
end

