-- ==== Sys2Proof/Config.lean ====
section
/-! DEFINITION. The fixed implementation parameters of the core (00_scope.md R8: "No parameter is left open").
There is no free value: no command of this core leaves a value undefined. -/

namespace Sys2Proof.Config

/-- TABLE_ENTRIES (R8). -/
abbrev tableEntries : Nat := 256

/-- NUM_PROFILES: ids 0..10 (R8, 90_conflicts.md C1). -/
abbrev numProfiles : Nat := 11

/-- The number of registers with an index, 0..8 (20_memory.md R51). -/
abbrev numRegisters : Nat := 9

/-- DESIGN CHOICE (assumption 1): what every TABLE entry holds after RESET.
R41 leaves it unspecified and never observable before the first build; the model names zero. -/
def tableResetEntry : Word := 0

end Sys2Proof.Config
end

