-- ==== Sys2Proof/Syntax.lean ====
section
/-! DEFINITION. The commands of the core: one constructor per row of the opcode table (30_encoding.md R74),
the three reserved rows among them. -/

namespace Sys2Proof

/-- Field P of the command word (R71): the bitwise ("slow") or the table-driven ("fast") path. -/
inductive Path where
  | bitwise
  | table
deriving DecidableEq, Repr

/-- The registers that have an index (20_memory.md R51). -/
inductive Reg where
  | ctrl
  | poly
  | init
  | xorout
  | status
  | mask
  | topbit
  | bytes
  | bits
deriving DecidableEq, Repr

/-- A command word, its fields taken apart (R72, R73).
Register and profile indices keep all 16 values: R77 checks the register index when the command is performed,
and the profile id by `Instr.wellFormed`. RBITS and RBYTES hold n - 1, as their fields do. -/
inductive Instr where
  /-- R101. -/
  | nop
  /-- R102: write OPA to a configuration register. -/
  | wrreg (reg : BitVec 4)
  /-- R103. -/
  | rdreg (reg : BitVec 4)
  /-- R106. -/
  | bind
  /-- R108. -/
  | profile (prof : BitVec 4)
  /-- CALC, R191 (the plain word is a keyword of Lean). -/
  | calculate (path : Path)
  /-- R192: `present` is the flag V. -/
  | update (path : Path) (present : Bool) (byte : Byte)
  /-- R159. -/
  | step (path : Path) (byte : Byte)
  /-- FINAL, R184. -/
  | final
  /-- UNFINAL, R185. -/
  | unfinal
  /-- R133. -/
  | rbits (nMinus1 : BitVec 6)
  /-- R134. -/
  | rbytes (nMinus1 : BitVec 3)
  /-- R160. -/
  | tread (index : Byte)
  /-- Reserved OP 0xD with its other 28 bits, whatever they are (R75). -/
  | reservedOpD (rest : BitVec 28)
  /-- Reserved OP 0xE (R75). -/
  | reservedOpE (rest : BitVec 28)
  /-- Reserved OP 0xF (R75). -/
  | reservedOpF (rest : BitVec 28)
deriving DecidableEq, Repr

end Sys2Proof
end

