-- ==== Sys2Proof/WellFormed.lean ====
section
/-! DEFINITION. Which instruction terms some command word stands for. The only check beyond the fields' widths is
the profile id (30_encoding.md R77: "only PROFILE has a further value check", R74). -/

namespace Sys2Proof

/-- R77: PROFILE has the ids 0..10; every other field admits every value of its width. -/
def Instr.wellFormed : Instr → Bool
  | .profile prof => decide (prof.toNat < Config.numProfiles)
  | .nop | .wrreg _ | .rdreg _ | .bind | .calculate _ | .update _ _ _ | .step _ _ | .final | .unfinal
  | .rbits _ | .rbytes _ | .tread _ | .reservedOpD _ | .reservedOpE _ | .reservedOpF _ => true

end Sys2Proof
end

