-- ==== Sys2Proof/Decode.lean ====
section
/-! DEFINITION. Decoding of the 32-bit command word, total (30_encoding.md R70 to R79), and the encoder written from the
format patterns of R72. A word of a reserved OP decodes to its reserved constructor, whose meaning is ERR_ILLEGAL_CMD
(assumption 4); every other illegal word is rejected by name. -/

namespace Sys2Proof

/-- Why a word whose OP is 0x0..0xC is illegal (R76, R77). Each raises ERR_ILLEGAL_CMD when performed. -/
inductive DecodeError where
  /-- A 1 in a bit that the format of `op` does not use (R76). -/
  | reservedBitSet (op : BitVec 4)
  /-- PROFILE with an id in 11..15 (R77). -/
  | profileId (prof : BitVec 4)
deriving DecidableEq, Repr

/-- A row of the opcode map: `w` belongs to it exactly when `w AND mask = pat` (R74). -/
structure OpcodeRow where
  pat  : CmdWord
  mask : CmdWord
deriving DecidableEq, Repr

/-- OP = CMD[31:28] (R71). -/
def opOf (w : CmdWord) : BitVec 4 := w.extractLsb' 28 4

/-- P = CMD[27] (R71, R73). -/
def pathOf (w : CmdWord) : Path := if w.getLsbD 27 then .table else .bitwise

/-- V = CMD[26] (R71, R73). -/
def presentOf (w : CmdWord) : Bool := w.getLsbD 26

/-- REG and PROF = CMD[11:8] (R73). -/
def indexOf (w : CmdWord) : BitVec 4 := w.extractLsb' 8 4

/-- N6 = CMD[13:8] (R73). -/
def n6Of (w : CmdWord) : BitVec 6 := w.extractLsb' 8 6

/-- N3 = CMD[10:8] (R73). -/
def n3Of (w : CmdWord) : BitVec 3 := w.extractLsb' 8 3

/-- IMM8 = CMD[7:0] (R71). -/
def imm8Of (w : CmdWord) : Byte := w.extractLsb' 0 8

/-- CMD[27:0], all that a reserved OP leaves (R75). -/
def restOf (w : CmdWord) : BitVec 28 := w.extractLsb' 0 28

/-- The opcode map of R74, by OP. The last arm is OP 0xF. -/
def opcodeRow (op : BitVec 4) : OpcodeRow :=
  match op with
  | 0x0#4 => ⟨0x00000000, 0xFFFFFFFF⟩
  | 0x1#4 => ⟨0x10000000, 0xFFFFF0FF⟩
  | 0x2#4 => ⟨0x20000000, 0xFFFFF0FF⟩
  | 0x3#4 => ⟨0x30000000, 0xFFFFFFFF⟩
  | 0x4#4 => ⟨0x40000000, 0xFFFFF0FF⟩
  | 0x5#4 => ⟨0x50000000, 0xF7FFFFFF⟩
  | 0x6#4 => ⟨0x60000000, 0xF3FFFF00⟩
  | 0x7#4 => ⟨0x70000000, 0xF7FFFF00⟩
  | 0x8#4 => ⟨0x80000000, 0xFFFFFFFF⟩
  | 0x9#4 => ⟨0x90000000, 0xFFFFFFFF⟩
  | 0xA#4 => ⟨0xA0000000, 0xFFFFC0FF⟩
  | 0xB#4 => ⟨0xB0000000, 0xFFFFF8FF⟩
  | 0xC#4 => ⟨0xC0000000, 0xFFFFFF00⟩
  | 0xD#4 => ⟨0xD0000000, 0xF0000000⟩
  | 0xE#4 => ⟨0xE0000000, 0xF0000000⟩
  | _     => ⟨0xF0000000, 0xF0000000⟩

/-- The fields of a word that fits its row, put together by OP (R79, last lines). The last arm is OP 0xF. -/
def decodeFields (w : CmdWord) : Except DecodeError Instr :=
  match opOf w with
  | 0x0#4 => .ok .nop
  | 0x1#4 => .ok (.wrreg (indexOf w))
  | 0x2#4 => .ok (.rdreg (indexOf w))
  | 0x3#4 => .ok .bind
  | 0x4#4 =>
    if (indexOf w).toNat < Config.numProfiles then .ok (.profile (indexOf w)) else .error (.profileId (indexOf w))
  | 0x5#4 => .ok (.calculate (pathOf w))
  | 0x6#4 => .ok (.update (pathOf w) (presentOf w) (imm8Of w))
  | 0x7#4 => .ok (.step (pathOf w) (imm8Of w))
  | 0x8#4 => .ok .final
  | 0x9#4 => .ok .unfinal
  | 0xA#4 => .ok (.rbits (n6Of w))
  | 0xB#4 => .ok (.rbytes (n3Of w))
  | 0xC#4 => .ok (.tread (imm8Of w))
  | 0xD#4 => .ok (.reservedOpD (restOf w))
  | 0xE#4 => .ok (.reservedOpE (restOf w))
  | _     => .ok (.reservedOpF (restOf w))

/-- Decode of R79: the row's check first, then PROFILE's id, then the fields. -/
def decode (w : CmdWord) : Except DecodeError Instr :=
  if w &&& (opcodeRow (opOf w)).mask = (opcodeRow (opOf w)).pat then decodeFields w
  else .error (.reservedBitSet (opOf w))

/-- The bit P of a path (R71). -/
def Path.bit : Path → BitVec 1
  | .bitwise => 0
  | .table   => 1

/-- The command word of an instruction, from the patterns of R72, bit 31 first. -/
def encode : Instr → CmdWord
  | .nop           => 0x0#4 ++ 0#28
  | .wrreg r       => 0x1#4 ++ 0#16 ++ r ++ 0#8
  | .rdreg r       => 0x2#4 ++ 0#16 ++ r ++ 0#8
  | .bind          => 0x3#4 ++ 0#28
  | .profile k     => 0x4#4 ++ 0#16 ++ k ++ 0#8
  | .calculate p   => 0x5#4 ++ p.bit ++ 0#27
  | .update p v b  => 0x6#4 ++ p.bit ++ BitVec.ofBool v ++ 0#18 ++ b
  | .step p b      => 0x7#4 ++ p.bit ++ 0#19 ++ b
  | .final         => 0x8#4 ++ 0#28
  | .unfinal       => 0x9#4 ++ 0#28
  | .rbits n       => 0xA#4 ++ 0#14 ++ n ++ 0#8
  | .rbytes n      => 0xB#4 ++ 0#17 ++ n ++ 0#8
  | .tread i       => 0xC#4 ++ 0#20 ++ i
  | .reservedOpD x => 0xD#4 ++ x
  | .reservedOpE x => 0xE#4 ++ x
  | .reservedOpF x => 0xF#4 ++ x

/-- What the decoder reads from the `nbits`-bit table word `w`. A command is exactly one 32-bit word (R70), so a longer
one is no command (DESIGN CHOICE, assumption 12); bits above `nbits` are 0. -/
def decodeTableWord (nbits w : Nat) : Option Instr :=
  if nbits ≤ 32 then (decode (BitVec.ofNat 32 (w % 2 ^ nbits))).toOption else none

end Sys2Proof
end

