-- ==== Sys2Proof/Machine/Bits.lean ====
section
/-! DEFINITION. Bits, bytes and extensions of 64-bit values (00_scope.md R9, R10). -/

namespace Sys2Proof.Machine

/-- `v[i] <- b` (R9). -/
def setBit (v : Word) (i : Nat) (b : Bool) : Word :=
  (v &&& ~~~(1#64 <<< i)) ||| ((BitVec.ofBool b).setWidth 64 <<< i)

/-- Byte k of v, `v[8k+7:8k]` (R9, 20_memory.md R54). -/
def getByte (v : Word) (k : Nat) : Byte := v.extractLsb' (8 * k) 8

/-- `v[8k+7:8k] <- b` (R9). -/
def setByte (v : Word) (k : Nat) (b : Byte) : Word :=
  (v &&& ~~~(0xFF#64 <<< (8 * k))) ||| (b.setWidth 64 <<< (8 * k))

/-- `zext_64` (R10). -/
def zext64 (b : Byte) : Word := b.setWidth 64

/-- `sext_64`, two's complement (R10). -/
def sext64 (b : Byte) : Word := b.signExtend 64

end Sys2Proof.Machine
end

