-- ==== Sys2Proof/Machine/State.lean ====
section
/-! DEFINITION. The state of the core as plain data: the architectural state of 10_state.md R20, the ports of R37, and
the host's commands still to be presented. The core has no program counter, no general registers and no memory
(R35, 20_memory.md R50). -/

namespace Sys2Proof.Machine

/-- The causes of a fault (60_exceptions.md R211), in the order of their codes 1..7. -/
inductive FaultCode where
  /-- ERR_VARIANT, raised by BIND. -/
  | variant
  /-- ERR_CFG_RANGE, raised by BIND. -/
  | cfgRange
  /-- ERR_NOT_BOUND, raised by the computing commands and TREAD. -/
  | notBound
  /-- ERR_OPERAND_RANGE, raised by STEP, FINAL, UNFINAL and UPDATE with V = 1. -/
  | operandRange
  /-- ERR_ILLEGAL_CMD, raised by any illegal word. -/
  | illegalCmd
  /-- ERR_BAD_REG, raised by WRREG and RDREG. -/
  | badReg
  /-- ERR_NO_TABLE, raised by TREAD. -/
  | noTable
deriving DecidableEq, Repr

/-- The response port RESP (R37, R38). `ok none` is the OK of NOP, WRREG, BIND and PROFILE, which carry no value. -/
inductive Response where
  | ok (value : Option Word)
  | fault (code : FaultCode)
  | refused
deriving DecidableEq, Repr

/-- One command as the host presents it: CMD, OPA and MSG together (R37, 20_memory.md R64). -/
structure Transaction where
  cmd : CmdWord
  opa : Word
  msg : List Byte
deriving DecidableEq, Repr

/-- What the host does next: present a command once the previous response is back (R64), or assert RESET
(70_reset_and_hazards.md R240), which may cut a command that is being performed (R243). -/
inductive HostAction where
  | command (t : Transaction)
  | reset (cut : Option Transaction)
deriving DecidableEq, Repr

/-- The lookup table: 256 entries of 64 bits (R31). -/
abbrev Table := Vector Word Config.tableEntries

/-- The configuration registers together: what R39 calls Config, bound while STATUS.BOUND = 1. A view of `State` and a
row of the profile ROM; it holds no state of its own. -/
structure Cfg where
  ctrl   : Word
  poly   : Word
  init   : Word
  xorout : Word
deriving DecidableEq, Repr

/-- The core. `ctrl` to `result` are the architectural state, exactly R20's; `cmd`, `opa`, `msg` and `resp` are the
ports of R37; `requests` is the host's side, the commands it has yet to present (assumption 3). -/
structure State where
  /-- CTRL, index 0 (R21). -/
  ctrl     : Word
  /-- POLY, index 1 (R25). -/
  poly     : Word
  /-- INIT, index 2 (R25). -/
  init     : Word
  /-- XOROUT, index 3 (R25). -/
  xorout   : Word
  /-- STATUS, index 4 (R27); its fields are read and written in Machine/Flags.lean. -/
  status   : Word
  /-- TABLE[0..255] (R31). -/
  table    : Table
  /-- RESULT, the result latch (R32). -/
  result   : Word
  /-- The host's commands and resets still to come, the next first. -/
  requests : List HostAction
  /-- CMD: the command word being performed. -/
  cmd      : CmdWord
  /-- OPA: the operand of the command being performed. -/
  opa      : Word
  /-- MSG: the message of the command being performed. -/
  msg      : List Byte
  /-- RESP: the response this step returned; none where the step performed no command (assumption 5). -/
  resp     : Option Response
deriving DecidableEq, Repr

/-- Reasons for the machine to stop with a fault: there are none. Every fault of the core is a response and a next state
(60_exceptions.md R212), and "the core always responds" (20_memory.md R64). Raised by no command; safe. -/
inductive Fault where
deriving DecidableEq, Repr

/-- Reasons for the model to refuse. The core's own REFUSED is a response and a next state (60_exceptions.md R213), not
one of these. -/
inductive Refusal where
  /-- An instruction without a meaning yet, raised by an arm of exec; safe. No arm raises it. -/
  | notModelled (mnemonic : String)
deriving DecidableEq, Repr

/-- The state after RESET (R41, R240): every register 0, and so BITS = 8, unbound, no fault. The spec leaves TABLE
unspecified (zero here, DESIGN CHOICE, assumption 1) and says nothing of the ports (DESIGN CHOICE, assumption 2). -/
def State.reset : State where
  ctrl     := 0
  poly     := 0
  init     := 0
  xorout   := 0
  status   := 0
  table    := Vector.replicate Config.tableEntries Config.tableResetEntry
  result   := 0
  requests := []
  cmd      := 0
  opa      := 0
  msg      := []
  resp     := none

end Sys2Proof.Machine
end

