-- ==== Sys2Proof/Machine/Operands.lean ====
section
/-! DEFINITION. The operand forms: the fields of CTRL (10_state.md R21 to R24), the quantities derived from it
(00_scope.md R12, 10_state.md R26), the register index map (20_memory.md R51), the Config view of the state and the
range check of OPA. -/

namespace Sys2Proof.Machine

/-- The bits of CTRL that exist: 10:8 and 4:0 (R24). -/
def ctrlWritable : Word := 0x71F

/-- CTRL.KIND = CTRL[1:0]: 0 Checksum, 1 Crc, 2 and 3 unsupported (R22). -/
def Cfg.kind (g : Cfg) : BitVec 2 := g.ctrl.extractLsb' 0 2

/-- CTRL.REFIN (R23). -/
def Cfg.refin (g : Cfg) : Bool := g.ctrl.getLsbD 2

/-- CTRL.REFOUT (R23). -/
def Cfg.refout (g : Cfg) : Bool := g.ctrl.getLsbD 3

/-- CTRL.REFOUTB (R23). -/
def Cfg.refoutb (g : Cfg) : Bool := g.ctrl.getLsbD 4

/-- CTRL.WBYTES = CTRL[10:8], the width in bytes minus 1 (R24). -/
def Cfg.wbytes (g : Cfg) : BitVec 3 := g.ctrl.extractLsb' 8 3

/-- BYTES = WBYTES + 1 (R12). -/
def Cfg.bytes (g : Cfg) : Nat := g.wbytes.toNat + 1

/-- BITS = 8 * BYTES (R12). -/
def Cfg.bits (g : Cfg) : Nat := 8 * g.bytes

/-- MASK = 2^BITS - 1, an exact integer: all ones for BITS = 64 (R10, R12). -/
def Cfg.mask (g : Cfg) : Word := BitVec.ofNat 64 (2 ^ g.bits - 1)

/-- TOPBIT = 2^(BITS-1) (R12). -/
def Cfg.topbit (g : Cfg) : Word := BitVec.ofNat 64 (2 ^ (g.bits - 1))

/-- The Config the registers hold (R39). -/
def State.cfg (s : State) : Cfg := ⟨s.ctrl, s.poly, s.init, s.xorout⟩

/-- The register index map (R51); 9..15 are reserved. -/
def regAt (index : BitVec 4) : Option Reg :=
  match index.toNat with
  | 0 => some .ctrl
  | 1 => some .poly
  | 2 => some .init
  | 3 => some .xorout
  | 4 => some .status
  | 5 => some .mask
  | 6 => some .topbit
  | 7 => some .bytes
  | 8 => some .bits
  | _ => none

/-- The operand range check: `v > MASK` (60_exceptions.md R211, code 4). -/
def Cfg.outOfRange (g : Cfg) (v : Word) : Bool := decide (g.mask < v)

end Sys2Proof.Machine
end

