-- ==== Sys2Proof/Machine/Checksum.lean ====
section
/-! DEFINITION. The checksum accumulator (42_checksum.md), used for CTRL.KIND = 0 by STEP, CALC and UPDATE. -/

namespace Sys2Proof.Machine

/-- CsumStep (R140): the byte added as a signed 8-bit value, modulo 2^64. -/
def csumStep (s : Word) (b : Byte) : Word := s + sext64 b

/-- CsumCalc (R141): from 0, every byte in message order, masked once at the end. -/
def csumCalc (g : Cfg) (M : List Byte) : Word := M.foldl csumStep 0 &&& g.mask

/-- CsumUpdate (R142): from the prior sum, or 0 where it is absent. -/
def csumUpdate (g : Cfg) (present : Bool) (a : Word) (b : Byte) : Word :=
  csumStep (if present then a else 0) b &&& g.mask

end Sys2Proof.Machine
end

