-- ==== Sys2Proof/Machine/Flags.lean ====
section
/-! DEFINITION. STATUS: its fields (10_state.md R27) and the three ways a command changes it. -/

namespace Sys2Proof.Machine

/-- The code of a fault in STATUS.ERRCODE (60_exceptions.md R211). -/
def FaultCode.errCode : FaultCode → BitVec 4
  | .variant      => 1
  | .cfgRange     => 2
  | .notBound     => 3
  | .operandRange => 4
  | .illegalCmd   => 5
  | .badReg       => 6
  | .noTable      => 7

/-- STATUS.BOUND, bit 0 (R28). -/
def State.bound (s : State) : Bool := s.status.getLsbD 0

/-- STATUS.TABLE_VALID, bit 1 (R29). -/
def State.tableValid (s : State) : Bool := s.status.getLsbD 1

/-- STATUS.FAULT, bit 2 (R30). -/
def State.faulted (s : State) : Bool := s.status.getLsbD 2

/-- STATUS.ERRCODE, bits 7:4 (R30). -/
def State.errcode (s : State) : BitVec 4 := s.status.extractLsb' 4 4

/-- STATUS after a fault (60_exceptions.md R212): FAULT set, ERRCODE the code, every other bit kept. -/
def statusFaulted (status : Word) (code : FaultCode) : Word :=
  (status &&& ~~~0xF0#64) ||| 0x4#64 ||| (code.errCode.setWidth 64 <<< 4)

/-- STATUS with BOUND and TABLE_VALID written, every other bit kept (40_config.md R102, R106, R108). -/
def statusBinding (status : Word) (bound tableValid : Bool) : Word :=
  setBit (setBit status 0 bound) 1 tableValid

end Sys2Proof.Machine
end

