-- ==== Sys2Proof/Machine/Ops.lean ====
section
/-! DEFINITION. The operations the commands share: the three responses, fault entry, the checks in the order of
60_exceptions.md R215, and the reads and writes of the registers. -/

namespace Sys2Proof.Machine

/-- `respond OK` with no value (00_scope.md R11, 10_state.md R38). -/
def State.respondOk (s : State) : State := { s with resp := some (.ok none) }

/-- `RESULT <- v`: the result latch is written and the same value returned (R11, R32). -/
def State.respondValue (s : State) (v : Word) : State := { s with result := v, resp := some (.ok (some v)) }

/-- Fault entry, `raise Fault(code)` (60_exceptions.md R212): STATUS.FAULT and STATUS.ERRCODE are written, nothing else,
and the response is FAULT(code). There is no handler and no return: only RESET leaves the faulted state (R213, R218). -/
def State.raise (s : State) (code : FaultCode) : State :=
  { s with status := statusFaulted s.status code, resp := some (.fault code) }

/-- REFUSED: the command is not performed and changes no state (60_exceptions.md R213). -/
def State.refuse (s : State) : State := { s with resp := some .refused }

/-- The first check of R215: a faulted core refuses. `performed` is the state where it is not faulted. -/
def unlessFaulted (s performed : State) : State := if s.faulted then s.refuse else performed

/-- Check 2 of R215, bound: ERR_NOT_BOUND while STATUS.BOUND = 0 (10_state.md R28). -/
def requireBound (s performed : State) : State := if s.bound then performed else s.raise .notBound

/-- Check 3 of R215, table present: ERR_NO_TABLE for KIND = 0 (43_crc_core.md R160). -/
def requireTable (s performed : State) : State := if s.cfg.kind = 0 then s.raise .noTable else performed

/-- Check 4 of R215, operand range: ERR_OPERAND_RANGE for OPA > MASK (60_exceptions.md R211). -/
def requireOperandInRange (s performed : State) : State :=
  if s.cfg.outOfRange s.opa then s.raise .operandRange else performed

/-- The value of a register (40_config.md R103). MASK, TOPBIT, BYTES and BITS are computed from CTRL (10_state.md R26). -/
def State.readReg (s : State) : Reg → Word
  | .ctrl   => s.ctrl
  | .poly   => s.poly
  | .init   => s.init
  | .xorout => s.xorout
  | .status => s.status
  | .mask   => s.cfg.mask
  | .topbit => s.cfg.topbit
  | .bytes  => BitVec.ofNat 64 s.cfg.bytes
  | .bits   => BitVec.ofNat 64 s.cfg.bits

/-- A configuration register written (40_config.md R102); CTRL keeps bits 10:8 and 4:0 only (10_state.md R24).
None for a register that is read-only (20_memory.md R51). -/
def State.writeReg (s : State) (reg : Reg) (v : Word) : Option State :=
  match reg with
  | .ctrl   => some { s with ctrl := v &&& ctrlWritable }
  | .poly   => some { s with poly := v }
  | .init   => some { s with init := v }
  | .xorout => some { s with xorout := v }
  | .status | .mask | .topbit | .bytes | .bits => none

/-- STATUS.BOUND and STATUS.TABLE_VALID written (R102, R106, R108). -/
def State.setBinding (s : State) (bound tableValid : Bool) : State :=
  { s with status := statusBinding s.status bound tableValid }

/-- The whole table written (43_crc_core.md R155). -/
def State.setTable (s : State) (T : Table) : State := { s with table := T }

/-- All four configuration registers loaded from a ROM row (40_config.md R108). -/
def State.loadCfg (s : State) (g : Cfg) : State :=
  { s with ctrl := g.ctrl, poly := g.poly, init := g.init, xorout := g.xorout }

/-- One entry of a table; every 8-bit index names one (20_memory.md R52). -/
def tableEntryAt (T : Table) (index : Byte) : Word := T.get index.toFin

end Sys2Proof.Machine
end

