-- ==== Sys2Proof/Machine/Reflect.lean ====
section
/-! DEFINITION. The reflection unit (41_reflect.md): ReflectBits, ReflectBytes, and the commands RBITS and RBYTES. -/

namespace Sys2Proof.Machine

/-- ReflectBits(v, n) (R130): the low n bits reversed, bits n..63 kept. -/
def reflectBits (v : Word) (n : Nat) : Word :=
  (List.range n).foldl (fun r i => setBit r (n - 1 - i) (v.getLsbD i)) v

/-- ReflectBytes(v, n) (R131): the low n bytes in reverse order, bytes n..7 kept, each byte's own bits in order. -/
def reflectBytes (v : Word) (n : Nat) : Word :=
  (List.range n).foldl (fun r k => setByte r (n - 1 - k) (getByte v k)) v

/-- RBITS (R133): the field holds n - 1. No bound Config is needed. -/
def execRbits (nMinus1 : BitVec 6) (s : State) : Host.Outcome State Fault Refusal :=
  .next (unlessFaulted s (s.respondValue (reflectBits s.opa (nMinus1.toNat + 1))))

/-- RBYTES (R134): the field holds n - 1. No bound Config is needed. -/
def execRbytes (nMinus1 : BitVec 3) (s : State) : Host.Outcome State Fault Refusal :=
  .next (unlessFaulted s (s.respondValue (reflectBytes s.opa (nMinus1.toNat + 1))))

end Sys2Proof.Machine
end

