-- ==== Sys2Proof/Machine/CrcCore.lean ====
section
/-! DEFINITION. The CRC division core (43_crc_core.md): the bitwise step, the table builder, the table-driven step, and
the commands STEP and TREAD. `g` is the Config, `T` the lookup table. -/

namespace Sys2Proof.Machine

/-- DivRound (R150): one round of binary polynomial division; the top bit is tested before the shift. -/
def divRound (g : Cfg) (c : Word) : Word :=
  if c &&& g.topbit ≠ 0 then ((c <<< 1) &&& g.mask) ^^^ g.poly else (c <<< 1) &&& g.mask

/-- Div8 (R151): eight rounds. -/
def div8 (g : Cfg) (c : Word) : Word := (divRound g)^[8] c

/-- InByte (R152): the byte zero-extended, its bits reversed first where REFIN = 1. -/
def inByte (g : Cfg) (b : Byte) : Word := if g.refin then reflectBits (zext64 b) 8 else zext64 b

/-- StepBit (R153), the bitwise per-byte step. -/
def stepBit (g : Cfg) (c : Word) (b : Byte) : Word := div8 g (c ^^^ (inByte g b <<< (g.bits - 8)))

/-- TableEntry (R154): the partial remainder of one leading byte. REFIN is not read. -/
def tableEntry (g : Cfg) (d : Byte) : Word := div8 g (zext64 d <<< (g.bits - 8))

/-- BuildTable (R155): TABLE[d] <- TableEntry(d) for d in 0..255. -/
def buildTable (g : Cfg) : Table := Vector.ofFn fun d => tableEntry g (BitVec.ofFin d)

/-- StepTab (R156), the table-driven per-byte step; the right shift is logical. -/
def stepTab (g : Cfg) (T : Table) (c : Word) (b : Byte) : Word :=
  ((c <<< 8) &&& g.mask) ^^^ tableEntryAt T (((inByte g b ^^^ (c >>> (g.bits - 8))) &&& 0xFF#64).setWidth 8)

/-- Step (R158): the checksum step for KIND = 0, else the path's step, which R158's text gives to KIND 2 and 3 as well
(no bound core has them; DEDUCED, assumption 10). -/
def perByteStep (g : Cfg) (T : Table) (p : Path) (c : Word) (b : Byte) : Word :=
  if g.kind = 0 then csumStep c b &&& g.mask
  else
    match p with
    | .bitwise => stepBit g c b
    | .table   => stepTab g T c b

/-- STEP (R159): one raw per-byte step on OPA. -/
def execStep (p : Path) (b : Byte) (s : State) : Host.Outcome State Fault Refusal :=
  .next (unlessFaulted s (requireBound s (requireOperandInRange s
    (s.respondValue (perByteStep s.cfg s.table p s.opa b)))))

/-- TREAD (R160): one table entry; ERR_NO_TABLE for a Checksum Config. -/
def execTread (index : Byte) (s : State) : Host.Outcome State Fault Refusal :=
  .next (unlessFaulted s (requireBound s (requireTable s (s.respondValue (tableEntryAt s.table index)))))

end Sys2Proof.Machine
end

