-- ==== Sys2Proof/Machine/ConfigCmds.lean ====
section
/-! DEFINITION. The configuration commands (40_config.md): NOP, WRREG, RDREG, BIND, PROFILE, and the profile ROM. -/

namespace Sys2Proof.Machine

/-- The profile ROM (R107): CTRL, POLY, INIT, XOROUT of ids 0..10, in the table's order. -/
def profileRom : List Cfg :=
  [ ⟨0x000, 0, 0, 0⟩,                                    -- 0  8-bit Checksum
    ⟨0x100, 0, 0, 0⟩,                                    -- 1  16-bit Checksum
    ⟨0x300, 0, 0, 0⟩,                                    -- 2  32-bit Checksum
    ⟨0x10D, 0x8005, 0x0000, 0x0000⟩,                     -- 3  CRC-16
    ⟨0x10D, 0x8005, 0xFFFF, 0x0000⟩,                     -- 4  CRC-16 Modbus
    ⟨0x101, 0x1021, 0xFFFF, 0x0000⟩,                     -- 5  CRC-CCITT
    ⟨0x101, 0x1021, 0x0000, 0x0000⟩,                     -- 6  CRC-CCITT XModem
    ⟨0x101, 0x1021, 0x1D0F, 0x0000⟩,                     -- 7  CRC-CCITT 0x1D0F
    ⟨0x11D, 0x1021, 0x0000, 0x0000⟩,                     -- 8  CRC-CCITT Kermit
    ⟨0x11D, 0x3D65, 0x0000, 0xFFFF⟩,                     -- 9  CRC-DNP
    ⟨0x30D, 0x04C11DB7, 0xFFFFFFFF, 0xFFFFFFFF⟩ ]        -- 10 CRC-32

/-- Check 2 of R105: POLY, INIT and XOROUT each at most MASK, required of a Crc Config only. -/
def Cfg.rangesOk (g : Cfg) : Bool :=
  !(g.outOfRange g.poly || g.outOfRange g.init || g.outOfRange g.xorout)

/-- The construction that BIND and PROFILE share (R106, R108): for KIND = 1 the table is built and TABLE_VALID set,
otherwise TABLE_VALID is cleared; BOUND is set. -/
def State.construct (s : State) : State :=
  if s.cfg.kind = 1 then (s.setBinding true true).setTable (buildTable s.cfg) else s.setBinding true false

/-- NOP (R101). -/
def execNop (s : State) : Host.Outcome State Fault Refusal :=
  .next (unlessFaulted s s.respondOk)

/-- WRREG (R102): the register written, BOUND and TABLE_VALID cleared whether or not the value changed. -/
def execWrreg (r : BitVec 4) (s : State) : Host.Outcome State Fault Refusal :=
  .next (unlessFaulted s
    (match (regAt r).bind fun reg => s.writeReg reg s.opa with
     | some written => (written.setBinding false false).respondOk
     | none => s.raise .badReg))

/-- RDREG (R103): the one command that is performed in the faulted state too, for an index 0..8 (60_exceptions.md R214). -/
def execRdreg (r : BitVec 4) (s : State) : Host.Outcome State Fault Refusal :=
  match regAt r with
  | some reg => .next (s.respondValue (s.readReg reg))
  | none => .next (unlessFaulted s (s.raise .badReg))

/-- BIND (R106): the variant checked, then the ranges of a Crc Config, then the construction. -/
def execBind (s : State) : Host.Outcome State Fault Refusal :=
  .next (unlessFaulted s
    (if s.cfg.kind ≥ 2 then s.raise .variant
     else if s.cfg.kind = 1 ∧ s.cfg.rangesOk = false then s.raise .cfgRange
     else s.construct.respondOk))

/-- PROFILE (R108): a ROM row loaded and bound. An id outside the ROM, which no legal word holds, is illegal
(30_encoding.md R77; DEDUCED, assumption 11). -/
def execProfile (k : BitVec 4) (s : State) : Host.Outcome State Fault Refusal :=
  .next (unlessFaulted s
    (match profileRom[k.toNat]? with
     | some g => (s.loadCfg g).construct.respondOk
     | none => s.raise .illegalCmd))

end Sys2Proof.Machine
end

