-- ==== Sys2Proof/Machine/Finalize.lean ====
section
/-! DEFINITION. The finalize and unfinalize stage (44_finalize.md), and the commands FINAL and UNFINAL. -/

namespace Sys2Proof.Machine

/-- Finalize (R180): reflect the bits, XOR, reflect the bytes; the identity for KIND = 0 (R183). -/
def finalize (g : Cfg) (r : Word) : Word :=
  if g.kind = 0 then r
  else
    let reflected := if g.refout then reflectBits r g.bits else r
    let xored := reflected ^^^ g.xorout
    if g.refoutb then reflectBytes xored g.bytes else xored

/-- Unfinalize (R181): the three steps undone in reverse order; the identity for KIND = 0 (R183). -/
def unfinalize (g : Cfg) (v : Word) : Word :=
  if g.kind = 0 then v
  else
    let bytesBack := if g.refoutb then reflectBytes v g.bytes else v
    let xored := bytesBack ^^^ g.xorout
    if g.refout then reflectBits xored g.bits else xored

/-- FINAL (R184): a raw register value finalized. -/
def execFinal (s : State) : Host.Outcome State Fault Refusal :=
  .next (unlessFaulted s (requireBound s (requireOperandInRange s (s.respondValue (finalize s.cfg s.opa)))))

/-- UNFINAL (R185): a finalized value back to a raw register value. -/
def execUnfinal (s : State) : Host.Outcome State Fault Refusal :=
  .next (unlessFaulted s (requireBound s (requireOperandInRange s (s.respondValue (unfinalize s.cfg s.opa)))))

end Sys2Proof.Machine
end

