-- ==== Sys2Proof/Machine/Facade.lean ====
section
/-! DEFINITION. The calculate and update commands (45_facade.md): CALC and UPDATE. -/

namespace Sys2Proof.Machine

/-- Calc (R190): the register starts at INIT, takes every byte in message order, and is finalized once at the end. -/
def calcValue (g : Cfg) (T : Table) (p : Path) (M : List Byte) : Word :=
  if g.kind = 0 then csumCalc g M else finalize g (M.foldl (perByteStep g T p) g.init)

/-- Update (R197): unfinalize the prior, or start at INIT where it is absent; one step; finalize. -/
def updateValue (g : Cfg) (T : Table) (p : Path) (present : Bool) (a : Word) (b : Byte) : Word :=
  if g.kind = 0 then csumUpdate g present a b
  else finalize g (perByteStep g T p (if present then unfinalize g a else g.init) b)

/-- CALC (R191): the finalized CRC or checksum of MSG. -/
def execCalculate (p : Path) (s : State) : Host.Outcome State Fault Refusal :=
  .next (unlessFaulted s (requireBound s (s.respondValue (calcValue s.cfg s.table p s.msg))))

/-- UPDATE (R192): one incremental step from the prior in OPA, which is read and checked only where V = 1. -/
def execUpdate (p : Path) (present : Bool) (b : Byte) (s : State) : Host.Outcome State Fault Refusal :=
  let done := s.respondValue (updateValue s.cfg s.table p present s.opa b)
  .next (unlessFaulted s (requireBound s (if present then requireOperandInRange s done else done)))

end Sys2Proof.Machine
end

