-- ==== Sys2Proof/Machine/Reserved.lean ====
section
/-! DEFINITION. Illegal command words: they raise ERR_ILLEGAL_CMD, or are REFUSED by a faulted core
(30_encoding.md R75, R76, R77, R79). The three reserved OPs of the opcode table have a meaning each. -/

namespace Sys2Proof.Machine

/-- What an illegal word does (30_encoding.md R79, last sentence; 60_exceptions.md R215). -/
def performIllegal (s : State) : State := unlessFaulted s (s.raise .illegalCmd)

/-- Reserved OP 0xD (R75). -/
def execReservedOpD (_rest : BitVec 28) (s : State) : Host.Outcome State Fault Refusal := .next (performIllegal s)

/-- Reserved OP 0xE (R75). -/
def execReservedOpE (_rest : BitVec 28) (s : State) : Host.Outcome State Fault Refusal := .next (performIllegal s)

/-- Reserved OP 0xF (R75). -/
def execReservedOpF (_rest : BitVec 28) (s : State) : Host.Outcome State Fault Refusal := .next (performIllegal s)

end Sys2Proof.Machine
end

