-- ==== Sys2Proof/Machine/Dispatch.lean ====
section
/-! DEFINITION. What each command does with the ports OPA and MSG of the state: one arm per constructor. -/

namespace Sys2Proof.Machine

def exec (i : Instr) (s : State) : Host.Outcome State Fault Refusal :=
  match i with
  | .nop => Sys2Proof.Machine.execNop s
  | .wrreg r => Sys2Proof.Machine.execWrreg r s
  | .rdreg r => Sys2Proof.Machine.execRdreg r s
  | .bind => Sys2Proof.Machine.execBind s
  | .profile k => Sys2Proof.Machine.execProfile k s
  | .calculate p => Sys2Proof.Machine.execCalculate p s
  | .update p v b => Sys2Proof.Machine.execUpdate p v b s
  | .step p b => Sys2Proof.Machine.execStep p b s
  | .final => Sys2Proof.Machine.execFinal s
  | .unfinal => Sys2Proof.Machine.execUnfinal s
  | .rbits n => Sys2Proof.Machine.execRbits n s
  | .rbytes n => Sys2Proof.Machine.execRbytes n s
  | .tread x => Sys2Proof.Machine.execTread x s
  | .reservedOpD x => Sys2Proof.Machine.execReservedOpD x s
  | .reservedOpE x => Sys2Proof.Machine.execReservedOpE x s
  | .reservedOpF x => Sys2Proof.Machine.execReservedOpF x s

end Sys2Proof.Machine
end

