-- ==== Sys2Proof/Machine/Perform.lean ====
section
/-! DEFINITION. One transaction (10_state.md R37, 20_memory.md R64): what the host presents, what the core performs
(60_exceptions.md R215), RESET (70_reset_and_hazards.md R240), and the idle core (60_exceptions.md R226). -/

namespace Sys2Proof.Machine

/-- The host drives CMD, OPA and MSG together; the rest of its commands wait for the response (R64). -/
def State.present (s : State) (t : Transaction) (rest : List HostAction) : State :=
  { s with requests := rest, cmd := t.cmd, opa := t.opa, msg := t.msg, resp := none }

/-- Perform (R215) for the word on CMD: an illegal word by `performIllegal`, any other by its own rule, whose checks
`exec` runs in R215's order, the faulted state first. -/
def perform (s : State) : Host.Outcome State Fault Refusal :=
  match decode s.cmd with
  | .ok i => exec i s
  | .error _ => .next (performIllegal s)

/-- RESET (R240): every piece of state at its reset value. Only the host's further commands remain. A command that RESET
cuts leaves nothing and gets no response (R243; DEDUCED, assumption 6). -/
def resetCore (rest : List HostAction) : State := { State.reset with requests := rest }

/-- No command is presented: "all state is kept while idle" (R226), and there is no response. -/
def State.idle (s : State) : State := { s with resp := none }

end Sys2Proof.Machine
end

