-- ==== Sys2Proof/Machine/Step.lean ====
section
/-! DEFINITION. One step: the host's next action. Commands are performed one at a time, each completely before the
next (20_memory.md R60). The core fetches nothing (10_state.md R35): the host's sequence of commands is the program. -/

namespace Sys2Proof.Machine

/-- One transaction with the host, one RESET, or nothing where the host has nothing more to do. A second command before
the response has no representation (20_memory.md R65; assumption 7). -/
def step (s : State) : Host.Outcome State Fault Refusal :=
  match s.requests with
  | [] => .next s.idle
  | .command t :: rest => perform (s.present t rest)
  | .reset _ :: rest => .next (resetCore rest)

/-- The host presents the `nbits`-bit word `w` next, with OPA and MSG as the ports hold them (assumption 3). -/
def State.withFetchWord (s : State) (nbits w : Nat) : State :=
  { s with requests := .command ⟨BitVec.ofNat 32 (w % 2 ^ nbits), s.opa, s.msg⟩ :: s.requests }

end Sys2Proof.Machine
end

