-- ==== Sys2Proof/Machine/Assembler.lean ====
section
/-! DEFINITION. The host's assembler (30_encoding.md R82, R83): the pseudo-instructions' expansions, and one line of
assembly text as the commands it stands for. Text is a list of characters. What R82 does not say of the text (blanks,
quotes inside a message, `_` inside a number, letter case) is DESIGN CHOICE, assumption 9. -/

namespace Sys2Proof.Machine

/-- A command with the operands its ports carry. R82 and R83 say what the assembler drives on OPA and MSG only for a command
that has such an operand. For every other (RDREG, BIND, PROFILE, TREAD, CALC's OPA, UPDATE with prior `-`) the model drives
OPA 0 and the empty MSG (DESIGN CHOICE, assumption 13), which R80 and R81 say have no effect. -/
def transact (i : Instr) (opa : Word := 0) (msg : List Byte := []) : Transaction := ⟨encode i, opa, msg⟩

/-- RDSTATUS is `RDREG STATUS` (R83). -/
def expandRdstatus : List Transaction := [transact (.rdreg 4)]

/-- The widths `SETSUM` and `SETCRC` accept: 8, 16, ..., 64 (R83). -/
def widthAccepted (bits : Nat) : Bool := bits % 8 == 0 && decide (8 ≤ bits) && decide (bits ≤ 64)

/-- SETSUM (R83): `WRREG CTRL, ((bits/8)-1) << 8`, then `BIND`. -/
def expandSetsum (bits : Nat) : Option (List Transaction) :=
  if widthAccepted bits then
    some [transact (.wrreg 0) (BitVec.ofNat 64 (bits / 8 - 1) <<< 8), transact .bind]
  else none

/-- SETCRC (R83): CTRL, POLY, INIT and XOROUT written, then `BIND`. -/
def expandSetcrc (bits : Nat) (poly init xorout : Word) (refin refout refoutb : Bool) : Option (List Transaction) :=
  if widthAccepted bits then
    let flag := fun (b : Bool) (at_ : Nat) => (BitVec.ofBool b).setWidth 64 <<< at_
    some [ transact (.wrreg 0)
             ((BitVec.ofNat 64 (bits / 8 - 1) <<< 8) ||| flag refoutb 4 ||| flag refout 3 ||| flag refin 2 ||| 1#64),
           transact (.wrreg 1) poly,
           transact (.wrreg 2) init,
           transact (.wrreg 3) xorout,
           transact .bind ]
  else none

/-! Characters, numbers and names. -/

/-- A character that separates words. -/
def isBlankChar (c : Char) : Bool := c == ' ' || c == '\t'

/-- The character that opens and closes a message text. -/
def quoteChar : Char := Char.ofNat 34

/-- Blanks at both ends removed. -/
def trimBlanks (cs : List Char) : List Char :=
  ((cs.dropWhile isBlankChar).reverse.dropWhile isBlankChar).reverse

/-- `;` starts a comment (R82), except inside a message text. -/
def stripComment : Bool → List Char → List Char
  | _, [] => []
  | quoted, c :: cs =>
    if c == ';' && !quoted then [] else c :: stripComment (if c == quoteChar then !quoted else quoted) cs

/-- The text cut at every occurrence of one character. -/
def splitAtChar (sep : Char) : List Char → List (List Char)
  | [] => [[]]
  | c :: cs =>
    match splitAtChar sep cs with
    | [] => [[c]]
    | part :: parts => if c == sep then [] :: part :: parts else (c :: part) :: parts

/-- The operands of a line, separated by commas. -/
def operandsOf (cs : List Char) : List (List Char) :=
  if (trimBlanks cs).isEmpty then [] else (splitAtChar ',' cs).map trimBlanks

/-- A digit of base 10 or 16. -/
def digitOf (c : Char) : Option Nat :=
  if '0' ≤ c ∧ c ≤ '9' then some (c.toNat - '0'.toNat)
  else if 'a' ≤ c ∧ c ≤ 'f' then some (c.toNat - 'a'.toNat + 10)
  else if 'A' ≤ c ∧ c ≤ 'F' then some (c.toNat - 'A'.toNat + 10)
  else none

/-- The number that the digits after `acc` make. -/
def digitsFrom (base : Nat) : Nat → List Char → Option Nat
  | acc, [] => some acc
  | acc, c :: cs => (digitOf c).bind fun d => if d < base then digitsFrom base (acc * base + d) cs else none

/-- The digits without the separator `_`. R82 does not name the separator. The spec's notation has it inside a hexadecimal
literal (00_scope.md R10), and so has the line of 40_config.md R102's example. The model takes it between digits of a
hexadecimal number, neither first nor last, and not in a decimal one (DESIGN CHOICE, assumption 9). -/
def withoutSeparators (ds : List Char) : Option (List Char) :=
  if ds.head? == some '_' || ds.getLast? == some '_' then none else some (ds.filter fun c => c != '_')

/-- "Numbers are decimal or `0x` hexadecimal" (R82), below `bound`. -/
def numberBelow (bound : Nat) (cs : List Char) : Option Nat :=
  let value :=
    match cs with
    | [] => none
    | ['0', 'x'] => none
    | '0' :: 'x' :: ds => (withoutSeparators ds).bind (digitsFrom 16 0)
    | ds => digitsFrom 10 0 ds
  value.bind fun n => if n < bound then some n else none

/-- A 64-bit value. -/
def wordOperand (cs : List Char) : Option Word := (numberBelow (2 ^ 64) cs).map (BitVec.ofNat 64)

/-- A byte, 0..255. -/
def byteOperand (cs : List Char) : Option Byte := (numberBelow 256 cs).map (BitVec.ofNat 8)

/-- A flag, 0 or 1 (R83). -/
def flagOperand (cs : List Char) : Option Bool := (numberBelow 2 cs).map (· == 1)

/-- A count n of 1..max, as the field holds it: n - 1 (R73, R82). -/
def countMinus1 (max : Nat) (cs : List Char) : Option Nat :=
  (numberBelow (max + 1) cs).bind fun n => if 0 < n then some (n - 1) else none

/-- The names of the registers, by index (R82). -/
def registerNames : List String := ["CTRL", "POLY", "INIT", "XOROUT", "STATUS", "MASK", "TOPBIT", "BYTES", "BITS"]

/-- The names of the profiles, by id (40_config.md R107). -/
def profileNames : List String :=
  [ "8-bit Checksum", "16-bit Checksum", "32-bit Checksum", "CRC-16", "CRC-16 Modbus", "CRC-CCITT",
    "CRC-CCITT XModem", "CRC-CCITT 0x1D0F", "CRC-CCITT Kermit", "CRC-DNP", "CRC-32" ]

/-- A name's place in a list of names, or a number below `bound`. -/
def nameOrNumber (names : List String) (bound : Nat) (cs : List Char) : Option Nat :=
  match names.findIdx? fun n => n.toList == cs with
  | some k => some k
  | none => numberBelow bound cs

/-- `<reg>` (R82): a name, or 0..15. -/
def registerOperand (cs : List Char) : Option (BitVec 4) := (nameOrNumber registerNames 16 cs).map (BitVec.ofNat 4)

/-- `<prof>` (R82): a name, or 0..10. -/
def profileOperand (cs : List Char) : Option (BitVec 4) :=
  (nameOrNumber profileNames Config.numProfiles cs).map (BitVec.ofNat 4)

/-- `<message>` (R82): a quoted text, its ASCII bytes, or a list of bytes in square brackets. -/
def messageOperand (cs : List Char) : Option (List Byte) :=
  match cs, cs.getLast? with
  | first :: rest, some last =>
    let body := rest.dropLast
    if rest.isEmpty then none
    else if first == quoteChar && last == quoteChar then
      body.mapM fun c => if c.toNat < 128 && c != quoteChar then some (BitVec.ofNat 8 c.toNat) else none
    else if first == '[' && last == ']' then (operandsOf body).mapM byteOperand
    else none
  | _, _ => none

/-- `<prior>` (R82): a value, which gives V = 1 and OPA, or `-`, which gives V = 0. -/
def priorOperand (cs : List Char) : Option (Option Word) :=
  if cs == ['-'] then some none else (wordOperand cs).map some

/-! One line. -/

/-- The two spellings of a command with a path: suffix `.B` is P = 0, `.T` is P = 1; the suffix is required (R82). -/
def pathSuffix (mnemonic : List Char) (base : String) : Option Path :=
  if mnemonic == base.toList ++ ['.', 'B'] then some .bitwise
  else if mnemonic == base.toList ++ ['.', 'T'] then some .table
  else none

/-- CALC, UPDATE and STEP (R82). `rest` is the line after the mnemonic. -/
def assemblePathCommand (mnemonic rest : List Char) : Option (List Transaction) :=
  match pathSuffix mnemonic "CALC" with
  | some p => (messageOperand (trimBlanks rest)).map fun M => [transact (.calculate p) 0 M]
  | none =>
    match pathSuffix mnemonic "UPDATE", operandsOf rest with
    | some p, [b, prior] => do
      let b ← byteOperand b
      let prior ← priorOperand prior
      some [transact (.update p prior.isSome b) (prior.getD 0)]
    | _, _ =>
      match pathSuffix mnemonic "STEP", operandsOf rest with
      | some p, [b, v] => do
        let b ← byteOperand b
        let v ← wordOperand v
        some [transact (.step p b) v]
      | _, _ => none

/-- One command of R82 or pseudo-instruction of R83; none where the assembler rejects the line. -/
def assembleCommand (mnemonic rest : List Char) : Option (List Transaction) :=
  let is := fun (name : String) => mnemonic == name.toList
  match operandsOf rest with
  | [] =>
    if is "NOP" then some [transact .nop]
    else if is "BIND" then some [transact .bind]
    else if is "RDSTATUS" then some expandRdstatus
    else none
  | [x] =>
    if is "RDREG" then (registerOperand x).map fun r => [transact (.rdreg r)]
    else if is "PROFILE" then (profileOperand x).map fun k => [transact (.profile k)]
    else if is "FINAL" then (wordOperand x).map fun v => [transact .final v]
    else if is "UNFINAL" then (wordOperand x).map fun v => [transact .unfinal v]
    else if is "TREAD" then (byteOperand x).map fun i => [transact (.tread i)]
    else if is "SETSUM" then (numberBelow 65 x).bind expandSetsum
    else assemblePathCommand mnemonic rest
  | [x, y] =>
    if is "WRREG" then do
      let r ← registerOperand x
      let v ← wordOperand y
      some [transact (.wrreg r) v]
    else if is "RBITS" then do
      let n ← countMinus1 64 x
      let v ← wordOperand y
      some [transact (.rbits (BitVec.ofNat 6 n)) v]
    else if is "RBYTES" then do
      let n ← countMinus1 8 x
      let v ← wordOperand y
      some [transact (.rbytes (BitVec.ofNat 3 n)) v]
    else assemblePathCommand mnemonic rest
  | [bits, poly, init, xorout, refin, refout, refoutb] =>
    if is "SETCRC" then do
      let bits ← numberBelow 65 bits
      let poly ← wordOperand poly
      let init ← wordOperand init
      let xorout ← wordOperand xorout
      let refin ← flagOperand refin
      let refout ← flagOperand refout
      let refoutb ← flagOperand refoutb
      expandSetcrc bits poly init xorout refin refout refoutb
    else assemblePathCommand mnemonic rest
  | _ => assemblePathCommand mnemonic rest

/-- One line: a line with nothing but blanks and a comment gives no command (R82). -/
def assembleLine (line : List Char) : Option (List Transaction) :=
  let text := trimBlanks (stripComment false line)
  if text.isEmpty then some []
  else assembleCommand (text.takeWhile fun c => !isBlankChar c) (text.dropWhile fun c => !isBlankChar c)

/-- A text of lines, "one command per line" (R82), as the host's sequence of commands (10_state.md R35). -/
def assembleProgram (text : List Char) : Option (List HostAction) :=
  ((splitAtChar '\n' text).mapM assembleLine).map fun lines => lines.flatten.map HostAction.command

end Sys2Proof.Machine
end

