-- ==== Sys2Proof/Safety.lean ====
section
/-! DEFINITION. What a good state is, and the words the statements use: sending one command to the core, the checks of
60_exceptions.md R215, and the host's fold of UPDATE over a message (45_facade.md R193). -/

namespace Sys2Proof.Safety

open Sys2Proof.Machine

/-- The invariants that hold between commands, from reset on (10_state.md R40, with R24, R27, R29, R30). -/
structure StateInv (s : State) : Prop where
  /-- R40 (a). -/
  bound_kind : s.bound = true → s.cfg.kind = 0 ∨ s.cfg.kind = 1
  /-- R40 (b). -/
  bound_ranges : s.bound = true → s.cfg.kind = 1 → s.poly ≤ s.cfg.mask ∧ s.init ≤ s.cfg.mask ∧ s.xorout ≤ s.cfg.mask
  /-- R40 (c): R29's invariant. -/
  tableValid_iff : s.tableValid = true ↔ s.bound = true ∧ s.cfg.kind = 1
  /-- What TABLE_VALID = 1 means (R29). -/
  table_current : s.tableValid = true → ∀ d, tableEntryAt s.table d = tableEntry s.cfg d
  /-- R40 (d), R30. -/
  errcode_zero : s.faulted = false → s.errcode = 0
  /-- The codes 8..15 are never raised (60_exceptions.md R211). -/
  errcode_known : s.faulted = true → ∃ c : FaultCode, s.errcode = c.errCode
  /-- R40 (e): the table is as RESET left it, or as a build for some valid Crc Config wrote it, every entry within that
  Config's MASK. -/
  table_written : s.table = State.reset.table ∨
    ∃ g : Cfg, g.kind = 1 ∧ g.rangesOk = true ∧
      ∀ d, tableEntryAt s.table d = tableEntry g d ∧ tableEntryAt s.table d ≤ g.mask
  /-- The reserved bits of CTRL read as 0 (R24). -/
  ctrl_reserved : s.ctrl &&& ~~~ctrlWritable = 0
  /-- The reserved bits of STATUS are never set (R27). -/
  status_reserved : ∀ j, j = 3 ∨ 8 ≤ j → s.status.getLsbD j = false

/-- The host presents one command and nothing after it. -/
def send (s : State) (t : Transaction) : Host.Outcome State Fault Refusal :=
  step { s with requests := [.command t] }

/-- The commands of OP 0xD, 0xE and 0xF (30_encoding.md R75). -/
def isReserved : Instr → Bool
  | .reservedOpD _ | .reservedOpE _ | .reservedOpF _ => true
  | _ => false

/-- A core that is faulted performs only RDREG with an index 0..8 (60_exceptions.md R213, R214). -/
def performedWhenFaulted : Instr → Bool
  | .rdreg r => decide (r.toNat ≤ 8)
  | _ => false

/-- Check 1 of R215: WRREG to 4..15, RDREG of 9..15. -/
def hasBadIndex : Instr → Bool
  | .wrreg r => decide (3 < r.toNat)
  | .rdreg r => decide (8 < r.toNat)
  | _ => false

/-- The commands of check 2 of R215: they compute with the Config (10_state.md R28). -/
def needsBound : Instr → Bool
  | .step _ _ | .final | .unfinal | .calculate _ | .update _ _ _ | .tread _ => true
  | _ => false

/-- The command of check 3 of R215. -/
def isTread : Instr → Bool
  | .tread _ => true
  | _ => false

/-- The commands of check 4 of R215: OPA must be at most MASK. -/
def checksOperand : Instr → Bool
  | .step _ _ | .final | .unfinal => true
  | .update _ present _ => present
  | _ => false

/-- The command of check 5 of R215. -/
def isBind : Instr → Bool
  | .bind => true
  | _ => false

/-- The checks of R215 in order: whether the command fails the check, and the code it then raises. -/
def checksInOrder (i : Instr) (s : State) (opa : Word) : List (Bool × FaultCode) :=
  [ (isReserved i, .illegalCmd),
    (hasBadIndex i, .badReg),
    (needsBound i && !s.bound, .notBound),
    (isTread i && decide (s.cfg.kind = 0), .noTable),
    (checksOperand i && decide (s.cfg.mask < opa), .operandRange),
    (isBind i && decide (2 ≤ s.cfg.kind.toNat), .variant),
    (isBind i && decide (s.cfg.kind = 1) &&
      decide (s.cfg.mask < s.poly ∨ s.cfg.mask < s.init ∨ s.cfg.mask < s.xorout), .cfgRange) ]

/-- The faults each command can raise (60_exceptions.md R216). -/
def raisable : Instr → List FaultCode
  | .nop => []
  | .wrreg _ => [.badReg]
  | .rdreg _ => [.badReg]
  | .bind => [.variant, .cfgRange]
  | .profile _ => []
  | .calculate _ => [.notBound]
  | .update _ _ _ => [.notBound, .operandRange]
  | .step _ _ => [.notBound, .operandRange]
  | .final => [.notBound, .operandRange]
  | .unfinal => [.notBound, .operandRange]
  | .rbits _ => []
  | .rbytes _ => []
  | .tread _ => [.notBound, .noTable]
  | .reservedOpD _ | .reservedOpE _ | .reservedOpF _ => [.illegalCmd]

/-- The commands that produce a value (10_state.md R32). -/
def producesValue : Instr → Bool
  | .rdreg _ | .step _ _ | .final | .unfinal | .rbits _ | .rbytes _ | .tread _ | .calculate _ | .update _ _ _ => true
  | _ => false

/-- The commands that read OPA (30_encoding.md R80). -/
def readsOpa : Instr → Bool
  | .wrreg _ | .step _ _ | .final | .unfinal | .rbits _ | .rbytes _ => true
  | .update _ present _ => present
  | _ => false

/-- The command that reads MSG (30_encoding.md R81). -/
def readsMsg : Instr → Bool
  | .calculate _ => true
  | _ => false

/-- A value as a polynomial over GF(2): bit i is the coefficient of x^i. -/
noncomputable def polyOf (v : Word) : Polynomial (ZMod 2) :=
  ∑ i ∈ Finset.range 64, if v.getLsbD i then Polynomial.X ^ i else 0

/-- The generator polynomial: POLY with its implicit x^BITS term (10_state.md R25). -/
noncomputable def generator (g : Cfg) : Polynomial (ZMod 2) := Polynomial.X ^ g.bits + polyOf g.poly

/-- The message as a polynomial, each byte as the division takes it (43_crc_core.md R152), the first byte highest. -/
noncomputable def messagePoly (g : Cfg) : List Byte → Polynomial (ZMod 2)
  | [] => 0
  | b :: M => Polynomial.X ^ (8 * M.length) * polyOf (inByte g b) + messagePoly g M

/-- The host folds UPDATE over a message (45_facade.md R193): it holds the prior, absent at first, and passes each value
back. `x` is what it leaves on OPA while the prior is absent. None where some UPDATE gives no value. -/
def foldUpdate (q : Path) (x : Word) : State → Option Word → List Byte → Option Word
  | _, prior, [] => prior
  | s, prior, b :: M =>
    match send s (transact (.update q prior.isSome b) (prior.getD x)) with
    | .next t =>
      match t.resp with
      | some (.ok (some v)) => foldUpdate q x t (some v) M
      | _ => none
    | _ => none

/-- The same core, but for its table. -/
def withTable (s : State) (T : Table) : State := { s with table := T }

end Sys2Proof.Safety
end

