-- ==== Sys2Proof/Certificates/Slice0/Obligations.lean ====
section
/-! DEFINITION. The statements for the provers. Each docstring names the rule of the spec it formalises.
No statement rests on what an entry of TABLE holds after RESET (assumption 1), nor on the ports' reset values (assumption 2)
but for RESP in ResetAbandonsTheCommandInProgress, which says so. -/

open Sys2Proof Sys2Proof.Machine Sys2Proof.Safety

/-! ## Reset, steps and transactions -/

/-- R41: the values the spec gives for reset, and the derived registers then. -/
def Obligations.ResetLeavesTheSpecifiedValues : Prop :=
  State.reset.ctrl = 0 ∧ State.reset.poly = 0 ∧ State.reset.init = 0 ∧ State.reset.xorout = 0 ∧
  State.reset.status = 0 ∧ State.reset.bound = false ∧ State.reset.tableValid = false ∧
  State.reset.faulted = false ∧ State.reset.errcode = 0 ∧ State.reset.result = 0 ∧
  State.reset.readReg .mask = 0xFF ∧ State.reset.readReg .topbit = 0x80 ∧
  State.reset.readReg .bytes = 1 ∧ State.reset.readReg .bits = 8

/-- RESET leaves every register at its reset value (R240), and a command it cuts is abandoned with no response (R243).
The model's choice, not the spec's: that RESP holds nothing after a RESET that cuts no command (assumptions 2 and 5), and
that RESET is an action of the host's list, whose rest stays (assumptions 3 and 6). -/
def Obligations.ResetAbandonsTheCommandInProgress : Prop :=
  ∀ (s : State) (cut : Option Transaction) (rest : List HostAction), s.requests = .reset cut :: rest →
    ∃ t, step s = .next t ∧ t.ctrl = 0 ∧ t.poly = 0 ∧ t.init = 0 ∧ t.xorout = 0 ∧ t.status = 0 ∧ t.result = 0 ∧
      t.resp = none ∧ t.requests = rest

/-- The invariants of R40 hold after reset. -/
def Obligations.ResetSatisfiesTheInvariants : Prop := StateInv State.reset

/-- R40 with R29 and R30: every step, of a command or of RESET, keeps the invariants. -/
def Obligations.StepKeepsTheInvariants : Prop :=
  ∀ s t : State, StateInv s → step s = .next t → StateInv t

/-- A step performs the command the host presents: `exec` of the decoded instruction, on the state whose ports carry the
transaction. With nothing presented the core is idle and keeps all state (R226). The model's choice, not the spec's: the
list of the host's actions that a step takes its command from (assumption 3), and that RESP holds nothing in an idle step
and before a command responds (assumption 5). -/
def Obligations.StepPerformsTheDecodedCommand : Prop :=
  (∀ (s : State) (t : Transaction) (rest : List HostAction) (i : Instr),
    s.requests = .command t :: rest → decode t.cmd = .ok i →
    step s = exec i { s with requests := rest, cmd := t.cmd, opa := t.opa, msg := t.msg, resp := none }) ∧
  ∀ s : State, s.requests = [] → step s = .next { s with resp := none }

/-- R64: the core always responds, exactly once, to whatever word, operand and message the host presents.
That the host's actions are a list whose rest stays is the model's choice (assumption 3). -/
def Obligations.EveryCommandGetsOneResponse : Prop :=
  ∀ (s : State) (t : Transaction) (rest : List HostAction), s.requests = .command t :: rest →
    ∃ s' r, step s = .next s' ∧ s'.resp = some r ∧ s'.requests = rest

/-- R60: a command sees none of the later ones. That they stand in a list of the state is the model's choice
(assumption 3). -/
def Obligations.CommandSeesNoLaterCommand : Prop :=
  ∀ (s u : State) (t : Transaction) (rest rest' : List HostAction), s.requests = .command t :: rest →
    step s = .next u → step { s with requests := .command t :: rest' } = .next { u with requests := rest' }

/-! ## Encoding -/

/-- R72, R73: decoding the word of a well-formed instruction gives the instruction back, every operand at every value.
For the reserved OPs 0xD, 0xE and 0xF it rests on the model's choice that they decode to constructors of their own
(assumption 4), where R79 answers Illegal. -/
def Obligations.DecodeOfEncode : Prop :=
  ∀ i : Instr, i.wellFormed = true → decode (encode i) = .ok i

/-- The other direction: a word decodes to well-formed instructions only, and to the one whose word it is. For the
reserved OPs it rests on the model's choice of assumption 4, where R79 answers Illegal. -/
def Obligations.EncodeOfDecode : Prop :=
  ∀ (w : CmdWord) (i : Instr), decode w = .ok i → i.wellFormed = true ∧ encode i = w

/-- R74: a word encodes a command exactly when it fits its row; PROFILE has its id checked; fields as R73 has them.
The last three clauses rest on the model's choice that a word of a reserved OP decodes to a constructor of its own
(assumption 4), where R75 and R79 say Illegal. -/
def Obligations.OpcodeMapDecodesEveryRow : Prop :=
  ∀ w : CmdWord,
    (decode w = .ok .nop ↔ w &&& 0xFFFFFFFF = 0x00000000) ∧
    (∀ r, decode w = .ok (.wrreg r) ↔ w &&& 0xFFFFF0FF = 0x10000000 ∧ r = w.extractLsb' 8 4) ∧
    (∀ r, decode w = .ok (.rdreg r) ↔ w &&& 0xFFFFF0FF = 0x20000000 ∧ r = w.extractLsb' 8 4) ∧
    (decode w = .ok .bind ↔ w &&& 0xFFFFFFFF = 0x30000000) ∧
    (∀ k, decode w = .ok (.profile k) ↔ w &&& 0xFFFFF0FF = 0x40000000 ∧ k = w.extractLsb' 8 4 ∧ k.toNat ≤ 10) ∧
    (∀ p, decode w = .ok (.calculate p) ↔
      w &&& 0xF7FFFFFF = 0x50000000 ∧ (p = .table ↔ w.getLsbD 27 = true)) ∧
    (∀ p v b, decode w = .ok (.update p v b) ↔
      w &&& 0xF3FFFF00 = 0x60000000 ∧ (p = .table ↔ w.getLsbD 27 = true) ∧ v = w.getLsbD 26 ∧
        b = w.extractLsb' 0 8) ∧
    (∀ p b, decode w = .ok (.step p b) ↔
      w &&& 0xF7FFFF00 = 0x70000000 ∧ (p = .table ↔ w.getLsbD 27 = true) ∧ b = w.extractLsb' 0 8) ∧
    (decode w = .ok .final ↔ w &&& 0xFFFFFFFF = 0x80000000) ∧
    (decode w = .ok .unfinal ↔ w &&& 0xFFFFFFFF = 0x90000000) ∧
    (∀ n, decode w = .ok (.rbits n) ↔ w &&& 0xFFFFC0FF = 0xA0000000 ∧ n = w.extractLsb' 8 6) ∧
    (∀ n, decode w = .ok (.rbytes n) ↔ w &&& 0xFFFFF8FF = 0xB0000000 ∧ n = w.extractLsb' 8 3) ∧
    (∀ i, decode w = .ok (.tread i) ↔ w &&& 0xFFFFFF00 = 0xC0000000 ∧ i = w.extractLsb' 0 8) ∧
    (∀ x, decode w = .ok (.reservedOpD x) ↔ w &&& 0xF0000000 = 0xD0000000 ∧ x = w.extractLsb' 0 28) ∧
    (∀ x, decode w = .ok (.reservedOpE x) ↔ w &&& 0xF0000000 = 0xE0000000 ∧ x = w.extractLsb' 0 28) ∧
    (∀ x, decode w = .ok (.reservedOpF x) ↔ w &&& 0xF0000000 = 0xF0000000 ∧ x = w.extractLsb' 0 28)

/-- A word of each family, written out bit by bit from the patterns of R72, decodes to what it stands for. -/
def Obligations.SampleWordsDecode : Prop :=
  decode 0b00000000000000000000000000000000 = .ok .nop ∧
  decode 0b00010000000000000000001100000000 = .ok (.wrreg 3) ∧
  decode 0b01000000000000000000101000000000 = .ok (.profile 10) ∧
  decode 0b01011000000000000000000000000000 = .ok (.calculate .table) ∧
  decode 0b01100100000000000000000000110010 = .ok (.update .bitwise true 0x32) ∧
  decode 0b01111000000000000000000000110001 = .ok (.step .table 0x31) ∧
  decode 0b10100000000000000011111100000000 = .ok (.rbits 63) ∧
  decode 0b10110000000000000000011100000000 = .ok (.rbytes 7) ∧
  decode 0b11000000000000000000000011111111 = .ok (.tread 255)

/-- R76, R77, R79: a word of OP 0x0..0xC with a 1 outside its format, and PROFILE 11..15, raise ERR_ILLEGAL_CMD, or are
REFUSED by a faulted core; every other word of OP 0x0..0xC decodes to a command that is not reserved. -/
def Obligations.IllegalWordsRaiseIllegalCommand : Prop :=
  ∀ t : Transaction, (opOf t.cmd).toNat ≤ 0xC →
    let illegal :=
      (∃ j, (opcodeRow (opOf t.cmd)).mask.getLsbD j = true ∧ (opcodeRow (opOf t.cmd)).pat.getLsbD j = false ∧
        t.cmd.getLsbD j = true) ∨
      (opOf t.cmd = 0x4 ∧ 10 < (indexOf t.cmd).toNat)
    (illegal → ∀ s : State, ∃ s', send s t = .next s' ∧
      (s.faulted = false → s'.resp = some (.fault .illegalCmd) ∧ s'.faulted = true ∧ s'.errcode = 5) ∧
      (s.faulted = true → s'.resp = some .refused ∧ s'.status = s.status)) ∧
    (¬ illegal → ∃ i, decode t.cmd = .ok i ∧ isReserved i = false)

/-- R75: any word of a reserved OP, whatever its other bits, raises ERR_ILLEGAL_CMD. The three decode clauses rest on the
model's choice that such a word decodes to a constructor of its own (assumption 4), where R79 answers Illegal. -/
def Obligations.ReservedOpcodesRaiseIllegalCommand : Prop :=
  ∀ (s : State) (x : BitVec 28), s.faulted = false →
    exec (.reservedOpD x) s = .next (s.raise .illegalCmd) ∧
    exec (.reservedOpE x) s = .next (s.raise .illegalCmd) ∧
    exec (.reservedOpF x) s = .next (s.raise .illegalCmd) ∧
    decode (0xD#4 ++ x) = .ok (.reservedOpD x) ∧
    decode (0xE#4 ++ x) = .ok (.reservedOpE x) ∧
    decode (0xF#4 ++ x) = .ok (.reservedOpF x)

/-! ## Faults -/

/-- R212, with the codes of R211: a fault sets FAULT and ERRCODE, responds FAULT(code), and writes nothing else. -/
def Obligations.FaultEntryWritesOnlyFaultAndErrcode : Prop :=
  ∀ (s s' : State) (t : Transaction) (rest : List HostAction) (c : FaultCode),
    s.requests = .command t :: rest → s.faulted = false → step s = .next s' → s'.resp = some (.fault c) →
    s'.faulted = true ∧
    s'.errcode = (match c with
      | .variant => 1 | .cfgRange => 2 | .notBound => 3 | .operandRange => 4 | .illegalCmd => 5 | .badReg => 6
      | .noTable => 7) ∧
    s'.bound = s.bound ∧ s'.tableValid = s.tableValid ∧
    (∀ j, j ≠ 2 → ¬ (4 ≤ j ∧ j < 8) → s'.status.getLsbD j = s.status.getLsbD j) ∧
    s'.ctrl = s.ctrl ∧ s'.poly = s.poly ∧ s'.init = s.init ∧ s'.xorout = s.xorout ∧ s'.table = s.table ∧
    s'.result = s.result

/-- R213: a faulted core refuses every word but RDREG 0..8 and changes no state; only RESET leaves the faulted state. -/
def Obligations.FaultedCoreRefuses : Prop :=
  (∀ (s : State) (t : Transaction) (rest : List HostAction),
    s.requests = .command t :: rest → s.faulted = true →
    (∀ r : BitVec 4, decode t.cmd = .ok (.rdreg r) → 8 < r.toNat) →
    step s = .next { s with
      requests := rest, cmd := t.cmd, opa := t.opa, msg := t.msg, resp := some .refused }) ∧
  ∀ s s' : State, s.faulted = true → step s = .next s' →
    s'.faulted = true ∨ ∃ cut rest, s.requests = .reset cut :: rest

/-- R214: a faulted core performs RDREG of an index 0..8; RDREG of 9..15 and an illegal word are REFUSED, raise no second
fault and leave ERRCODE. -/
def Obligations.RdregIsPerformedWhileFaulted : Prop :=
  ∀ (s : State) (t : Transaction), s.faulted = true →
    (∀ (r : BitVec 4) (v : Word), decode t.cmd = .ok (.rdreg r) →
      [s.ctrl, s.poly, s.init, s.xorout, s.status, s.cfg.mask, s.cfg.topbit, BitVec.ofNat 64 s.cfg.bytes,
        BitVec.ofNat 64 s.cfg.bits][r.toNat]? = some v →
      ∃ s', send s t = .next s' ∧ s'.resp = some (.ok (some v)) ∧ s'.result = v ∧ s'.status = s.status) ∧
    (∀ r : BitVec 4, decode t.cmd = .ok (.rdreg r) → 8 < r.toNat →
      ∃ s', send s t = .next s' ∧ s'.resp = some .refused ∧ s'.errcode = s.errcode) ∧
    (∀ e, decode t.cmd = .error e → ∃ s', send s t = .next s' ∧ s'.resp = some .refused ∧ s'.errcode = s.errcode)

/-- R218: faults do not nest, and ERRCODE holds the first fault since reset. -/
def Obligations.ErrcodeHoldsTheFirstFault : Prop :=
  ∀ s s' : State, s.faulted = true → (∀ cut rest, s.requests ≠ .reset cut :: rest) → step s = .next s' →
    s'.faulted = true ∧ s'.errcode = s.errcode ∧ ∀ c, s'.resp ≠ some (.fault c)

/-- R216: the faults each command can raise: no others, and each of these for some operands in some state that meets
the invariants. -/
def Obligations.FaultsEachCommandCanRaise : Prop :=
  (∀ (i : Instr) (s t : State) (c : FaultCode), i.wellFormed = true → exec i s = .next t →
    t.resp = some (.fault c) → c ∈ raisable i) ∧
  ∀ (i : Instr) (c : FaultCode), c ∈ raisable i →
    ∃ j s t, opOf (encode j) = opOf (encode i) ∧ StateInv s ∧ s.faulted = false ∧ exec j s = .next t ∧
      t.resp = some (.fault c)

/-- R215: the first check that fails decides the response. -/
def Obligations.FirstFailedCheckDecidesTheResponse : Prop :=
  ∀ (s : State) (t : Transaction), ∃ s', send s t = .next s' ∧
    match decode t.cmd with
    | .error _ => s'.resp = some (if s.faulted then .refused else .fault .illegalCmd)
    | .ok i =>
      if s.faulted then
        if performedWhenFaulted i then ∃ v, s'.resp = some (.ok (some v)) else s'.resp = some .refused
      else
        match (checksInOrder i s t.opa).find? (fun check => check.1) with
        | some check => s'.resp = some (.fault check.2)
        | none => ∃ v, s'.resp = some (.ok v)

/-! ## RESULT, ports and frames -/

/-- R32: a value goes to RESULT and to the OK response alike; every other outcome leaves RESULT; RDREG cannot read it. -/
def Obligations.ResultLatchHoldsTheReturnedValue : Prop :=
  (∀ (i : Instr) (s t : State), exec i s = .next t →
    (∀ v, t.resp = some (.ok v) → (v.isSome = producesValue i)) ∧
    (∀ v, t.resp = some (.ok (some v)) → t.result = v) ∧
    ((∀ v, t.resp ≠ some (.ok (some v))) → t.result = s.result)) ∧
  ∀ (r : BitVec 4) (s t : State) (x : Word), exec (.rdreg r) s = .next t →
    ∃ t', exec (.rdreg r) { s with result := x } = .next t' ∧ t'.resp = t.resp

/-- R39, its column of writes, as the frame of a command that completes with OK: NOP and the value commands write no
register but RESULT; WRREG writes one configuration register and BOUND and TABLE_VALID; BIND writes no configuration
register; BIND and PROFILE write STATUS.BOUND, STATUS.TABLE_VALID, and TABLE for a Crc Config only. -/
def Obligations.CommandsWriteOnlyWhatTheAccessTableLists : Prop :=
  ∀ (i : Instr) (s t : State) (v : Option Word), exec i s = .next t → t.resp = some (.ok v) →
    (t.requests = s.requests ∧ t.cmd = s.cmd ∧ t.opa = s.opa ∧ t.msg = s.msg) ∧
    (∀ j, 2 ≤ j → t.status.getLsbD j = s.status.getLsbD j) ∧
    (producesValue i = false → t.result = s.result) ∧
    (producesValue i = true ∨ i = .nop → t.cfg = s.cfg ∧ t.status = s.status ∧ t.table = s.table) ∧
    (∀ r, i = .wrreg r → t.table = s.table ∧ (r ≠ 0 → t.ctrl = s.ctrl) ∧ (r ≠ 1 → t.poly = s.poly) ∧
      (r ≠ 2 → t.init = s.init) ∧ (r ≠ 3 → t.xorout = s.xorout)) ∧
    (i = .bind → t.cfg = s.cfg) ∧
    (∀ k, i = .bind ∨ i = .profile k → t.cfg.kind ≠ 1 → t.table = s.table)

/-- R80, R81: OPA has no effect on a command that does not read it, nor MSG on any but CALC. -/
def Obligations.UnreadPortsHaveNoEffect : Prop :=
  (∀ (i : Instr) (s t : State) (x : Word), readsOpa i = false → exec i s = .next t →
    exec i { s with opa := x } = .next { t with opa := x }) ∧
  ∀ (i : Instr) (s t : State) (M : List Byte), readsMsg i = false → exec i s = .next t →
    exec i { s with msg := M } = .next { t with msg := M }

/-- R31, R41: while TABLE_VALID = 0 the contents of TABLE are never observable: whatever they are, a step answers alike,
and either leaves them alone, still invalid, or overwrites all of them. -/
def Obligations.InvalidTableIsNeverObservable : Prop :=
  ∀ (s t : State) (T : Table), StateInv s → s.tableValid = false → step s = .next t →
    (t.tableValid = false ∧ step (withTable s T) = .next (withTable t T)) ∨ step (withTable s T) = .next t

/-! ## Configuration commands -/

/-- R101. -/
def Obligations.NopHasNoEffect : Prop :=
  decode 0x00000000 = .ok .nop ∧
  ∀ s : State,
    (s.faulted = false → exec .nop s = .next { s with resp := some (.ok none) }) ∧
    (s.faulted = true → exec .nop s = .next { s with resp := some .refused })

/-- R102, with R24: WRREG stores the register, CTRL without its reserved bits, and clears BOUND and TABLE_VALID; an index
4..15 raises ERR_BAD_REG. -/
def Obligations.WrregStoresAndUnbinds : Prop :=
  (∀ (w : CmdWord) (r : BitVec 4), decode w = .ok (.wrreg r) ↔ w &&& 0xFFFFF0FF = 0x10000000 ∧ r = w.extractLsb' 8 4) ∧
  ∀ s : State, s.faulted = false →
    exec (.wrreg 0) s = .next { s with
      ctrl := s.opa &&& 0x71F, status := s.status &&& ~~~3#64, resp := some (.ok none) } ∧
    exec (.wrreg 1) s = .next { s with poly := s.opa, status := s.status &&& ~~~3#64, resp := some (.ok none) } ∧
    exec (.wrreg 2) s = .next { s with init := s.opa, status := s.status &&& ~~~3#64, resp := some (.ok none) } ∧
    exec (.wrreg 3) s = .next { s with xorout := s.opa, status := s.status &&& ~~~3#64, resp := some (.ok none) } ∧
    ∀ r : BitVec 4, 3 < r.toNat → exec (.wrreg r) s = .next (s.raise .badReg)

/-- R103, R51, with the formulas of R12: RDREG returns the indexed register, MASK, TOPBIT, BYTES and BITS computed from
CTRL[10:8]; an index 9..15 raises ERR_BAD_REG. -/
def Obligations.RdregReturnsTheIndexedRegister : Prop :=
  (∀ (w : CmdWord) (r : BitVec 4), decode w = .ok (.rdreg r) ↔ w &&& 0xFFFFF0FF = 0x20000000 ∧ r = w.extractLsb' 8 4) ∧
  ∀ s : State,
    let bytes := s.ctrl.toNat / 256 % 8 + 1
    let bits := 8 * bytes
    (∀ (r : BitVec 4) (v : Word),
      [s.ctrl, s.poly, s.init, s.xorout, s.status, BitVec.ofNat 64 (2 ^ bits - 1), BitVec.ofNat 64 (2 ^ (bits - 1)),
        BitVec.ofNat 64 bytes, BitVec.ofNat 64 bits][r.toNat]? = some v →
      exec (.rdreg r) s = .next { s with result := v, resp := some (.ok (some v)) }) ∧
    ∀ r : BitVec 4, 8 < r.toNat → s.faulted = false → exec (.rdreg r) s = .next (s.raise .badReg)

/-- R105, R106: BIND checks the variant, then the ranges of a Crc Config, then constructs; binding a bound core again
changes nothing. -/
def Obligations.BindValidatesAndConstructs : Prop :=
  (∀ w : CmdWord, decode w = .ok .bind ↔ w = 0x30000000) ∧
  ∀ s : State, s.faulted = false →
    let kind := s.ctrl.toNat % 4
    let inRange := s.poly ≤ s.cfg.mask ∧ s.init ≤ s.cfg.mask ∧ s.xorout ≤ s.cfg.mask
    (2 ≤ kind → exec .bind s = .next (s.raise .variant)) ∧
    (kind = 1 → ¬ inRange → exec .bind s = .next (s.raise .cfgRange)) ∧
    (kind = 0 → exec .bind s = .next { s with status := (s.status ||| 1) &&& ~~~2#64, resp := some (.ok none) }) ∧
    (kind = 1 → inRange →
      ∃ T : Table, (∀ d, tableEntryAt T d = tableEntry s.cfg d) ∧
        exec .bind s = .next { s with status := s.status ||| 3, table := T, resp := some (.ok none) }) ∧
    (StateInv s → s.bound = true → exec .bind s = .next { s with resp := some (.ok none) })

/-- R107, R108: PROFILE loads the ROM row of its id and binds it, and gives the registers, STATUS and TABLE that the four
WRREGs and BIND give. -/
def Obligations.ProfileLoadsAndBindsTheRomRow : Prop :=
  (∀ (w : CmdWord) (k : BitVec 4),
    decode w = .ok (.profile k) ↔ w &&& 0xFFFFF0FF = 0x40000000 ∧ k = w.extractLsb' 8 4 ∧ k.toNat ≤ 10) ∧
  ∀ (s : State) (k : BitVec 4) (c p i x : Word), s.faulted = false →
    ([(0x000, 0, 0, 0), (0x100, 0, 0, 0), (0x300, 0, 0, 0), (0x10D, 0x8005, 0, 0), (0x10D, 0x8005, 0xFFFF, 0),
      (0x101, 0x1021, 0xFFFF, 0), (0x101, 0x1021, 0, 0), (0x101, 0x1021, 0x1D0F, 0), (0x11D, 0x1021, 0, 0),
      (0x11D, 0x3D65, 0, 0xFFFF), (0x30D, 0x04C11DB7, 0xFFFFFFFF, 0xFFFFFFFF)] :
        List (Word × Word × Word × Word))[k.toNat]? = some (c, p, i, x) →
    ∃ T : Table,
      (if c.toNat % 4 = 1 then ∀ d, tableEntryAt T d = tableEntry ⟨c, p, i, x⟩ d else T = s.table) ∧
      exec (.profile k) s = .next { s with
        ctrl := c, poly := p, init := i, xorout := x, table := T, resp := some (.ok none),
        status := if c.toNat % 4 = 1 then s.status ||| 3 else (s.status ||| 1) &&& ~~~2#64 } ∧
      ∃ u, Host.Core.run Sys2Proof.core 5 { s with requests :=
          [.command (transact (.wrreg 0) c), .command (transact (.wrreg 1) p), .command (transact (.wrreg 2) i),
           .command (transact (.wrreg 3) x), .command (transact .bind)] } = .next u ∧
        u.cfg = ⟨c, p, i, x⟩ ∧ u.table = T ∧ u.result = s.result ∧
        u.status = if c.toNat % 4 = 1 then s.status ||| 3 else (s.status ||| 1) &&& ~~~2#64

/-- R28, its last sentence, as R108 leaves it: while BOUND = 1 no command but PROFILE, which binds what it loads, changes
the Config without clearing BOUND (assumption 8). -/
def Obligations.BoundConfigIsImmutable : Prop :=
  ∀ (s s' : State) (t : Transaction) (rest : List HostAction), s.requests = .command t :: rest → s.bound = true →
    (∀ k, decode t.cmd ≠ .ok (.profile k)) → step s = .next s' → s'.bound = true → s'.cfg = s.cfg

/-- R245: after a WRREG to a configuration register, and until a BIND or PROFILE, a computing command faults with
ERR_NOT_BOUND. -/
def Obligations.UnboundCoreComputesNothing : Prop :=
  (∀ (s t : State) (r : BitVec 4), s.faulted = false → r.toNat ≤ 3 → exec (.wrreg r) s = .next t →
    t.bound = false ∧ t.faulted = false) ∧
  (∀ (i : Instr) (s t : State), s.bound = false → i ≠ .bind → (∀ k, i ≠ .profile k) → exec i s = .next t →
    t.bound = false) ∧
  ∀ (i : Instr) (s : State), s.faulted = false → s.bound = false → needsBound i = true →
    exec i s = .next (s.raise .notBound)

/-- R83: the pseudo-instructions' expansions, and the widths the assembler rejects. The model's choice, not R83's: the empty
MSG of every command, and OPA 0 of RDREG and BIND, which read neither port (assumption 13). -/
def Obligations.PseudoInstructionsExpand : Prop :=
  expandRdstatus = [⟨0x20000400, 0, []⟩] ∧
  (∀ bytes : Nat, 1 ≤ bytes → bytes ≤ 8 →
    expandSetsum (8 * bytes) = some [⟨0x10000000, BitVec.ofNat 64 (256 * (bytes - 1)), []⟩, ⟨0x30000000, 0, []⟩] ∧
    ∀ (poly init xorout : Word) (refin refout refoutb : Bool),
      expandSetcrc (8 * bytes) poly init xorout refin refout refoutb = some
        [⟨0x10000000, BitVec.ofNat 64 (256 * (bytes - 1) + 16 * refoutb.toNat + 8 * refout.toNat + 4 * refin.toNat + 1),
          []⟩, ⟨0x10000100, poly, []⟩, ⟨0x10000200, init, []⟩, ⟨0x10000300, xorout, []⟩, ⟨0x30000000, 0, []⟩]) ∧
  ∀ bits : Nat, (∀ bytes, 1 ≤ bytes → bytes ≤ 8 → bits ≠ 8 * bytes) →
    expandSetsum bits = none ∧
    ∀ poly init xorout refin refout refoutb, expandSetcrc bits poly init xorout refin refout refoutb = none

/-- R244 (b): SETCRC's five commands bind the Config they name, with its table, from any core that is not faulted. -/
def Obligations.SetcrcBindsTheNamedConfig : Prop :=
  ∀ (s : State) (bytes : Nat) (poly init xorout : Word) (refin refout refoutb : Bool) (ts : List Transaction),
    s.faulted = false → 1 ≤ bytes → bytes ≤ 8 →
    poly.toNat < 2 ^ (8 * bytes) → init.toNat < 2 ^ (8 * bytes) → xorout.toNat < 2 ^ (8 * bytes) →
    expandSetcrc (8 * bytes) poly init xorout refin refout refoutb = some ts →
    ∃ t, Host.Core.run Sys2Proof.core 5 { s with requests := ts.map .command } = .next t ∧
      t.bound = true ∧ t.tableValid = true ∧ t.faulted = false ∧ t.resp = some (.ok none) ∧
      t.cfg.kind = 1 ∧ t.cfg.bits = 8 * bytes ∧ t.poly = poly ∧ t.init = init ∧ t.xorout = xorout ∧
      t.cfg.refin = refin ∧ t.cfg.refout = refout ∧ t.cfg.refoutb = refoutb ∧
      ∀ d, tableEntryAt t.table d = tableEntry t.cfg d

/-! ## Reflection -/

/-- R133 with R130: RBITS n reverses the low n bits and keeps the others; no Config is needed. -/
def Obligations.RbitsReversesTheLowBits : Prop :=
  (∀ (w : CmdWord) (m : BitVec 6), decode w = .ok (.rbits m) ↔ w &&& 0xFFFFC0FF = 0xA0000000 ∧ m = w.extractLsb' 8 6) ∧
  ∀ (s : State) (m : BitVec 6), s.faulted = false →
    let n := m.toNat + 1
    ∃ v, exec (.rbits m) s = .next { s with result := v, resp := some (.ok (some v)) } ∧
      (∀ i, i < n → v.getLsbD (n - 1 - i) = s.opa.getLsbD i) ∧
      ∀ j, n ≤ j → v.getLsbD j = s.opa.getLsbD j

/-- R134 with R131: RBYTES n reverses the low n bytes, each with its bits in order, and keeps the others. -/
def Obligations.RbytesReversesTheLowBytes : Prop :=
  (∀ (w : CmdWord) (m : BitVec 3), decode w = .ok (.rbytes m) ↔ w &&& 0xFFFFF8FF = 0xB0000000 ∧ m = w.extractLsb' 8 3) ∧
  ∀ (s : State) (m : BitVec 3), s.faulted = false →
    let n := m.toNat + 1
    ∃ v, exec (.rbytes m) s = .next { s with result := v, resp := some (.ok (some v)) } ∧
      (∀ k, k < n → v.extractLsb' (8 * (n - 1 - k)) 8 = s.opa.extractLsb' (8 * k) 8) ∧
      ∀ k, n ≤ k → v.extractLsb' (8 * k) 8 = s.opa.extractLsb' (8 * k) 8

/-- R132: both reflections are their own inverses. -/
def Obligations.ReflectionsAreSelfInverse : Prop :=
  (∀ (v : Word) (n : Nat), 1 ≤ n → n ≤ 64 → reflectBits (reflectBits v n) n = v) ∧
  ∀ (v : Word) (n : Nat), 1 ≤ n → n ≤ 8 → reflectBytes (reflectBytes v n) n = v

/-! ## Checksum -/

/-- R140 and R158 for KIND = 0: STEP adds the signed byte to the sum modulo 2^BITS, on either path. -/
def Obligations.ChecksumStepAddsTheSignedByte : Prop :=
  (∀ (x : Word) (b : Byte), ((csumStep x b).toNat : Int) =
    ((x.toNat : Int) + (if b.toNat < 128 then (b.toNat : Int) else (b.toNat : Int) - 256)) % 2 ^ 64) ∧
  ∀ (s : State) (p : Path) (b : Byte), s.faulted = false → s.bound = true → s.cfg.kind = 0 → s.opa ≤ s.cfg.mask →
    ∃ v, exec (.step p b) s = .next { s with result := v, resp := some (.ok (some v)) } ∧
      (v.toNat : Int) = ((s.opa.toNat : Int) + b.toInt) % 2 ^ s.cfg.bits

/-- R141: CALC under a Checksum Config gives the sum of the signed bytes modulo 2^BITS. -/
def Obligations.ChecksumOfAMessageIsTheSignedSum : Prop :=
  ∀ (s : State) (p : Path), s.faulted = false → s.bound = true → s.cfg.kind = 0 →
    ∃ v, exec (.calculate p) s = .next { s with result := v, resp := some (.ok (some v)) } ∧
      (v.toNat : Int) = (s.msg.map BitVec.toInt).sum % 2 ^ s.cfg.bits

/-- R142: UPDATE under a Checksum Config adds the signed byte to the prior sum, or to 0 where it is absent. -/
def Obligations.ChecksumUpdateAddsToThePrior : Prop :=
  ∀ (s : State) (p : Path) (present : Bool) (b : Byte), s.faulted = false → s.bound = true → s.cfg.kind = 0 →
    (present = true → s.opa ≤ s.cfg.mask) →
    ∃ v, exec (.update p present b) s = .next { s with result := v, resp := some (.ok (some v)) } ∧
      (v.toNat : Int) = ((if present then (s.opa.toNat : Int) else 0) + b.toInt) % 2 ^ s.cfg.bits

/-! ## The division core -/

/-- R150: the round doubles the register, and where the top bit was set takes away 2^BITS and XORs POLY; it stays within
MASK. -/
def Obligations.DivisionRoundShiftsAndSubtracts : Prop :=
  ∀ (g : Cfg) (c : Word), g.poly ≤ g.mask → c ≤ g.mask →
    (c.toNat < 2 ^ (g.bits - 1) → (divRound g c).toNat = 2 * c.toNat) ∧
    (2 ^ (g.bits - 1) ≤ c.toNat → (divRound g c).toNat = (2 * c.toNat - 2 ^ g.bits) ^^^ g.poly.toNat) ∧
    divRound g c ≤ g.mask

/-- R152: the byte enters unsigned, bit i as bit i, or as bit 7-i where REFIN = 1. -/
def Obligations.InputByteIsReflectedUnderRefin : Prop :=
  ∀ (g : Cfg) (b : Byte) (i : Nat), i < 8 →
    (inByte g b).toNat ≤ 0xFF ∧
    (g.refin = false → (inByte g b).getLsbD i = b.getLsbD i) ∧
    (g.refin = true → (inByte g b).getLsbD (7 - i) = b.getLsbD i)

/-- R154, R155: the table a Crc Config gets holds, for every d, the remainder of d * x^BITS by the generator polynomial;
entry 0 is 0, entry 1 is POLY, and REFIN is not read. -/
def Obligations.TableHoldsTheRemainderOfEveryByte : Prop :=
  ∀ g : Cfg, g.poly ≤ g.mask →
    (∀ d : Byte, tableEntryAt (buildTable g) d = tableEntry g d ∧ tableEntry g d ≤ g.mask ∧
      polyOf (tableEntry g d) = (Polynomial.X ^ g.bits * polyOf (d.setWidth 64)) %ₘ generator g) ∧
    tableEntry g 0 = 0 ∧ tableEntry g 1 = g.poly ∧
    ∀ (g' : Cfg) (d : Byte), g'.poly = g.poly → g'.wbytes = g.wbytes → tableEntry g' d = tableEntry g d

/-- R160: TREAD returns the indexed entry, or raises ERR_NOT_BOUND, then ERR_NO_TABLE; entry 0 is 0 and entry 1 is POLY. -/
def Obligations.TreadReturnsTheTableEntry : Prop :=
  (∀ (w : CmdWord) (x : Byte), decode w = .ok (.tread x) ↔ w &&& 0xFFFFFF00 = 0xC0000000 ∧ x = w.extractLsb' 0 8) ∧
  ∀ (s : State) (x : Byte), s.faulted = false →
    (s.bound = false → exec (.tread x) s = .next (s.raise .notBound)) ∧
    (s.bound = true → s.cfg.kind = 0 → exec (.tread x) s = .next (s.raise .noTable)) ∧
    (s.bound = true → s.cfg.kind ≠ 0 →
      exec (.tread x) s = .next { s with
        result := s.table[x.toNat]'x.isLt, resp := some (.ok (some (s.table[x.toNat]'x.isLt))) } ∧
      (StateInv s → (x = 0 → s.table[x.toNat]'x.isLt = 0) ∧ (x = 1 → s.table[x.toNat]'x.isLt = s.poly)))

/-- R159 with R158: STEP checks bound, then the range of OPA, then takes one step of the kind and path. -/
def Obligations.StepChecksThenSteps : Prop :=
  (∀ (w : CmdWord) (p : Path) (b : Byte), decode w = .ok (.step p b) ↔
    w &&& 0xF7FFFF00 = 0x70000000 ∧ (p = .table ↔ w.getLsbD 27 = true) ∧ b = w.extractLsb' 0 8) ∧
  ∀ (s : State) (p : Path) (b : Byte), s.faulted = false →
    (s.bound = false → exec (.step p b) s = .next (s.raise .notBound)) ∧
    (s.bound = true → s.cfg.mask < s.opa → exec (.step p b) s = .next (s.raise .operandRange)) ∧
    (s.bound = true → s.opa ≤ s.cfg.mask →
      let v :=
        if s.cfg.kind = 0 then csumStep s.opa b &&& s.cfg.mask
        else if p = .bitwise then stepBit s.cfg s.opa b else stepTab s.cfg s.table s.opa b
      exec (.step p b) s = .next { s with result := v, resp := some (.ok (some v)) }) ∧
    (StateInv s → s.bound = true → s.cfg.kind = 1 → s.opa = 0 →
      exec (.step p 0) s = .next { s with result := 0, resp := some (.ok (some 0)) })

/-- R150 to R153, R156: under a bound Crc Config STEP, on either path, gives the remainder of c * x^8 + b * x^BITS by the
generator polynomial, b as InByte takes it. -/
def Obligations.StepIsPolynomialDivision : Prop :=
  ∀ (s : State) (p : Path) (b : Byte), StateInv s → s.faulted = false → s.bound = true → s.cfg.kind = 1 →
    s.opa ≤ s.cfg.mask →
    ∃ v, exec (.step p b) s = .next { s with result := v, resp := some (.ok (some v)) } ∧ v ≤ s.cfg.mask ∧
      polyOf v = (Polynomial.X ^ 8 * polyOf s.opa + Polynomial.X ^ s.cfg.bits * polyOf (inByte s.cfg b)) %ₘ
        generator s.cfg

/-- R157: the table-driven step equals the bitwise step. -/
def Obligations.TableStepEqualsBitwiseStep : Prop :=
  ∀ (s : State) (c : Word) (b : Byte), StateInv s → s.bound = true → s.cfg.kind = 1 → c ≤ s.cfg.mask →
    stepTab s.cfg s.table c b = stepBit s.cfg c b

/-! ## Finalize -/

/-- R184, R180: FINAL checks, then reflects the bits, XORs, and reflects the bytes. Bit j of the result, for KIND = 1, is
bit k of the XORed value, k the place the byte reflection takes it from. -/
def Obligations.FinalReflectsThenXorsThenReverses : Prop :=
  (∀ w : CmdWord, decode w = .ok .final ↔ w = 0x80000000) ∧
  ∀ s : State, s.faulted = false →
    (s.bound = false → exec .final s = .next (s.raise .notBound)) ∧
    (s.bound = true → s.cfg.mask < s.opa → exec .final s = .next (s.raise .operandRange)) ∧
    (s.bound = true → s.opa ≤ s.cfg.mask →
      ∃ v, exec .final s = .next { s with result := v, resp := some (.ok (some v)) } ∧
        (s.cfg.kind = 0 → v = s.opa) ∧
        (s.cfg.kind ≠ 0 → ∀ j, j < 64 →
          let k := if s.cfg.refoutb = true ∧ j < s.cfg.bits then 8 * (s.cfg.bytes - 1 - j / 8) + j % 8 else j
          v.getLsbD j =
            ((if s.cfg.refout = true ∧ k < s.cfg.bits then s.opa.getLsbD (s.cfg.bits - 1 - k) else s.opa.getLsbD k) ^^
              s.xorout.getLsbD k)) ∧
        (StateInv s → v ≤ s.cfg.mask))

/-- R185, R181: UNFINAL checks, then reverses the bytes, XORs, and reflects the bits. UNFINAL of a FINAL result gives the
original value. -/
def Obligations.UnfinalUndoesTheStepsInReverse : Prop :=
  (∀ w : CmdWord, decode w = .ok .unfinal ↔ w = 0x90000000) ∧
  ∀ s : State, s.faulted = false →
    (s.bound = false → exec .unfinal s = .next (s.raise .notBound)) ∧
    (s.bound = true → s.cfg.mask < s.opa → exec .unfinal s = .next (s.raise .operandRange)) ∧
    (s.bound = true → s.opa ≤ s.cfg.mask →
      ∃ v, exec .unfinal s = .next { s with result := v, resp := some (.ok (some v)) } ∧
        (s.cfg.kind = 0 → v = s.opa) ∧
        (s.cfg.kind ≠ 0 → ∀ j, j < 64 →
          let k := if s.cfg.refout = true ∧ j < s.cfg.bits then s.cfg.bits - 1 - j else j
          v.getLsbD j =
            ((if s.cfg.refoutb = true ∧ k < s.cfg.bits then s.opa.getLsbD (8 * (s.cfg.bytes - 1 - k / 8) + k % 8)
              else s.opa.getLsbD k) ^^ s.xorout.getLsbD k)) ∧
        (StateInv s → v ≤ s.cfg.mask)) ∧
    (StateInv s → s.bound = true → ∀ r : Word, r ≤ s.cfg.mask →
      exec .unfinal { s with opa := finalize s.cfg r } = .next { s with
        opa := finalize s.cfg r, result := r, resp := some (.ok (some r)) })

/-- R182: Finalize and Unfinalize undo each other on every value up to MASK, and stay within MASK. -/
def Obligations.FinalizeRoundTrips : Prop :=
  ∀ (s : State) (r : Word), StateInv s → s.bound = true → r ≤ s.cfg.mask →
    unfinalize s.cfg (finalize s.cfg r) = r ∧ finalize s.cfg (unfinalize s.cfg r) = r ∧
    finalize s.cfg r ≤ s.cfg.mask ∧ unfinalize s.cfg r ≤ s.cfg.mask

/-- R183: for a Checksum Config FINAL and UNFINAL are the identity, and CALC of the empty message gives 0. -/
def Obligations.ChecksumFinalizeIsTheIdentity : Prop :=
  ∀ s : State, s.faulted = false → s.bound = true → s.cfg.kind = 0 →
    (s.opa ≤ s.cfg.mask →
      exec .final s = .next { s with result := s.opa, resp := some (.ok (some s.opa)) } ∧
      exec .unfinal s = .next { s with result := s.opa, resp := some (.ok (some s.opa)) }) ∧
    ∀ p, s.msg = [] → exec (.calculate p) s = .next { s with result := 0, resp := some (.ok (some 0)) }

/-! ## Calculate and update -/

/-- R191 with R190: CALC checks bound. Under a Crc Config it starts at INIT, steps through every byte in message order, and
finalizes once; under a Checksum Config it sums the bytes and masks. The path bit does not change the result. -/
def Obligations.CalcStepsThroughTheMessage : Prop :=
  (∀ (w : CmdWord) (p : Path), decode w = .ok (.calculate p) ↔
    w &&& 0xF7FFFFFF = 0x50000000 ∧ (p = .table ↔ w.getLsbD 27 = true)) ∧
  ∀ (s : State) (p : Path), s.faulted = false →
    (s.bound = false → exec (.calculate p) s = .next (s.raise .notBound)) ∧
    (s.bound = true →
      let step1 := fun (c : Word) (b : Byte) =>
        if p = .bitwise then stepBit s.cfg c b else stepTab s.cfg s.table c b
      let v :=
        if s.cfg.kind = 0 then s.msg.foldl csumStep 0 &&& s.cfg.mask
        else finalize s.cfg (s.msg.foldl step1 s.init)
      exec (.calculate p) s = .next { s with result := v, resp := some (.ok (some v)) }) ∧
    (StateInv s → ∀ q, exec (.calculate p) s = exec (.calculate q) s)

/-- R192 with R197: UPDATE checks, then, under a Crc Config, unfinalizes the prior or starts at INIT, takes one step and
finalizes; under a Checksum Config it adds the byte to the prior or to 0. Its result is a legal prior for the next UPDATE. -/
def Obligations.UpdateResumesFromThePrior : Prop :=
  (∀ (w : CmdWord) (p : Path) (v : Bool) (b : Byte), decode w = .ok (.update p v b) ↔
    w &&& 0xF3FFFF00 = 0x60000000 ∧ (p = .table ↔ w.getLsbD 27 = true) ∧ v = w.getLsbD 26 ∧
      b = w.extractLsb' 0 8) ∧
  ∀ (s : State) (p : Path) (present : Bool) (b : Byte), s.faulted = false →
    (s.bound = false → exec (.update p present b) s = .next (s.raise .notBound)) ∧
    (s.bound = true → present = true → s.cfg.mask < s.opa →
      exec (.update p present b) s = .next (s.raise .operandRange)) ∧
    (s.bound = true → (present = true → s.opa ≤ s.cfg.mask) →
      let w := if present then unfinalize s.cfg s.opa else s.init
      let v :=
        if s.cfg.kind = 0 then csumStep (if present then s.opa else 0) b &&& s.cfg.mask
        else finalize s.cfg (if p = .bitwise then stepBit s.cfg w b else stepTab s.cfg s.table w b)
      exec (.update p present b) s = .next { s with result := v, resp := some (.ok (some v)) } ∧
        (StateInv s → v ≤ s.cfg.mask))

/-- Glossary "CRC", R190, R153: under a bound Crc Config CALC finalizes the remainder of init * x^(8L) + M(x) * x^BITS by
the generator polynomial, M the message as the division takes it and L its length. -/
def Obligations.CalcIsTheRemainderOfTheMessage : Prop :=
  ∀ (s : State) (p : Path), StateInv s → s.faulted = false → s.bound = true → s.cfg.kind = 1 →
    ∃ r, r ≤ s.cfg.mask ∧
      polyOf r = (Polynomial.X ^ (8 * s.msg.length) * polyOf s.init +
        Polynomial.X ^ s.cfg.bits * messagePoly s.cfg s.msg) %ₘ generator s.cfg ∧
      exec (.calculate p) s = .next { s with
        result := finalize s.cfg r, resp := some (.ok (some (finalize s.cfg r))) }

/-- R193: folding UPDATE over a message of length at least 1, from an absent prior, gives what CALC gives, whichever paths
the two take. Over the empty message the fold stays absent. -/
def Obligations.UpdateFoldEqualsCalc : Prop :=
  (∀ (s : State) (p q : Path) (x : Word) (M : List Byte), StateInv s → s.faulted = false → s.bound = true → M ≠ [] →
    ∃ v t, send s (transact (.calculate p) x M) = .next t ∧ t.resp = some (.ok (some v)) ∧
      foldUpdate q x s none M = some v) ∧
  ∀ (s : State) (q : Path) (x : Word), foldUpdate q x s none [] = none

/-- R194: CALC of the empty message gives Finalize(INIT), or 0 for a Checksum Config. -/
def Obligations.EmptyMessageGivesFinalizedInit : Prop :=
  ∀ (s : State) (p : Path), s.faulted = false → s.bound = true → s.msg = [] →
    (s.cfg.kind = 0 → exec (.calculate p) s = .next { s with result := 0, resp := some (.ok (some 0)) }) ∧
    (s.cfg.kind = 1 → exec (.calculate p) s = .next { s with
      result := finalize s.cfg s.init, resp := some (.ok (some (finalize s.cfg s.init))) })

/-- R195: the path bit changes no result of CALC, UPDATE or STEP, for either kind of Config. -/
def Obligations.PathBitChangesNoResult : Prop :=
  ∀ (s : State) (present : Bool) (b : Byte), StateInv s →
    exec (.calculate .bitwise) s = exec (.calculate .table) s ∧
    exec (.update .bitwise present b) s = exec (.update .table present b) s ∧
    exec (.step .bitwise b) s = exec (.step .table b) s

/-- R196: UPDATE's response depends only on the bound Config, CMD and, where V = 1, OPA: two cores that agree on these
respond alike, whatever else their state and their past. -/
def Obligations.UpdateKeepsNoHiddenStream : Prop :=
  ∀ (s s' : State) (p : Path) (present : Bool) (b : Byte), StateInv s → StateInv s' →
    s.faulted = false → s'.faulted = false → s.bound = true → s'.bound = true → s.cfg = s'.cfg →
    (present = true → s.opa = s'.opa) →
    ∃ t t', exec (.update p present b) s = .next t ∧ exec (.update p present b) s' = .next t' ∧ t.resp = t'.resp
end

