-- ==== Sys2Proof/Laws/Bits.lean ====
section
/-! SUPPORT. What the bit and byte updates of Machine/Bits.lean do, bit by bit. -/

namespace Sys2Proof.Machine

theorem getLsbD_of_ge_64 (v : Word) {j : Nat} (hj : 64 ≤ j) : v.getLsbD j = false :=
  BitVec.getLsbD_of_ge v j hj

theorem setBit_getLsbD (v : Word) {i : Nat} (b : Bool) (j : Nat) (hi : i < 64) :
    (setBit v i b).getLsbD j = if j = i then b else v.getLsbD j := by
  by_cases hj : j < 64
  · rcases lt_trichotomy j i with h | h | h
    · have : ¬ j = i := by omega
      simp [setBit, hj, h, this]
    · subst h
      cases b <;> simp [setBit, hj]
    · have h1 : ¬ j = i := by omega
      have h2 : ¬ j < i := by omega
      have h3 : j - i ≠ 0 := by omega
      simp [setBit, hj, h1, h2, h3, BitVec.getLsbD_ofBool]
  · have : ¬ j = i := by omega
    simp [this, getLsbD_of_ge_64 _ (Nat.le_of_not_lt hj)]

theorem getByte_getLsbD (v : Word) (k j : Nat) :
    (getByte v k).getLsbD j = (decide (j < 8) && v.getLsbD (8 * k + j)) := by
  simp [getByte]

theorem ff_getLsbD (j : Nat) : (0xFF#64).getLsbD j = decide (j < 8) := by
  by_cases hj : j < 64
  · have h : ∀ i : Fin 64, (0xFF#64).getLsbD i.val = decide (i.val < 8) := by decide
    exact h ⟨j, hj⟩
  · have : ¬ j < 8 := by omega
    simp [getLsbD_of_ge_64 _ (Nat.le_of_not_lt hj), this]

theorem setByte_getLsbD (v : Word) {k : Nat} (b : Byte) (j : Nat) (hk : k < 8) :
    (setByte v k b).getLsbD j = if 8 * k ≤ j ∧ j < 8 * k + 8 then b.getLsbD (j - 8 * k) else v.getLsbD j := by
  by_cases hj : j < 64
  · by_cases h1 : j < 8 * k
    · have : ¬ (8 * k ≤ j ∧ j < 8 * k + 8) := by omega
      simp [setByte, hj, h1, this]
    · by_cases h2 : j < 8 * k + 8
      · have h3 : 8 * k ≤ j ∧ j < 8 * k + 8 := by omega
        have h5 : j - 8 * k < 8 := by omega
        simp [setByte, hj, h1, h3, h5, ff_getLsbD]
      · have h3 : ¬ (8 * k ≤ j ∧ j < 8 * k + 8) := by omega
        have h5 : (0xFF#64).getLsbD (j - 8 * k) = false := by rw [ff_getLsbD]; simp; omega
        rw [BitVec.getLsbD_eq_getElem (by omega)] at h5
        simp [setByte, hj, h1, h3, h5, BitVec.getLsbD_of_ge b (j - 8 * k) (by omega)]
  · have : ¬ (8 * k ≤ j ∧ j < 8 * k + 8) := by omega
    simp [this, getLsbD_of_ge_64 _ (Nat.le_of_not_lt hj)]

theorem zext64_getLsbD (b : Byte) (j : Nat) : (zext64 b).getLsbD j = b.getLsbD j := by
  by_cases hj : j < 64
  · simp [zext64, hj]
  · simp [getLsbD_of_ge_64 _ (Nat.le_of_not_lt hj), BitVec.getLsbD_of_ge b j (by omega)]

theorem zext64_toNat (b : Byte) : (zext64 b).toNat = b.toNat := by
  have := b.isLt
  simp [zext64, BitVec.toNat_setWidth]; omega

theorem sext64_toInt (b : Byte) : (sext64 b).toInt = b.toInt := by
  simp [sext64, BitVec.toInt_signExtend_of_le]

end Sys2Proof.Machine
end

