-- ==== Sys2Proof/Laws/Operands.lean ====
section
/-! SUPPORT. The derived quantities (00_scope.md R12) and the range check. -/

namespace Sys2Proof.Machine

theorem Cfg.bytes_pos (g : Cfg) : 1 ≤ g.bytes := by simp [Cfg.bytes]

theorem Cfg.bytes_le (g : Cfg) : g.bytes ≤ 8 := by
  have := g.wbytes.isLt
  simp only [Cfg.bytes]; omega

theorem Cfg.bits_ge (g : Cfg) : 8 ≤ g.bits := by have := g.bytes_pos; simp only [Cfg.bits]; omega

theorem Cfg.bits_le (g : Cfg) : g.bits ≤ 64 := by have := g.bytes_le; simp only [Cfg.bits]; omega

theorem Cfg.two_pow_bits_le (g : Cfg) : 2 ^ g.bits ≤ 2 ^ 64 := Nat.pow_le_pow_right (by decide) g.bits_le

theorem Cfg.mask_toNat (g : Cfg) : g.mask.toNat = 2 ^ g.bits - 1 := by
  have h := g.two_pow_bits_le
  have h1 : 0 < 2 ^ g.bits := Nat.two_pow_pos _
  rw [Cfg.mask, BitVec.toNat_ofNat]
  exact Nat.mod_eq_of_lt (by omega)

theorem Cfg.topbit_toNat (g : Cfg) : g.topbit.toNat = 2 ^ (g.bits - 1) := by
  rw [Cfg.topbit, BitVec.toNat_ofNat]
  exact Nat.mod_eq_of_lt (Nat.pow_lt_pow_right (by decide) (by have := g.bits_le; have := g.bits_ge; omega))

/-- MASK has exactly the low BITS bits set (R12). -/
theorem Cfg.mask_getLsbD (g : Cfg) (j : Nat) : g.mask.getLsbD j = decide (j < g.bits) := by
  rw [BitVec.getLsbD, g.mask_toNat, Nat.testBit_two_pow_sub_one]

/-- TOPBIT has exactly bit BITS-1 set (R12). -/
theorem Cfg.topbit_getLsbD (g : Cfg) (j : Nat) : g.topbit.getLsbD j = decide (j = g.bits - 1) := by
  rw [BitVec.getLsbD, g.topbit_toNat, Nat.testBit_two_pow]
  simp [eq_comm]

theorem Cfg.le_mask_iff (g : Cfg) (v : Word) : v ≤ g.mask ↔ v.toNat < 2 ^ g.bits := by
  have h1 : 0 < 2 ^ g.bits := Nat.two_pow_pos _
  rw [BitVec.le_def, g.mask_toNat]; omega

/-- A value is at most MASK exactly when it has no bit at or above BITS. -/
theorem Cfg.le_mask_iff_bits (g : Cfg) (v : Word) : v ≤ g.mask ↔ ∀ j, g.bits ≤ j → v.getLsbD j = false := by
  rw [g.le_mask_iff]
  constructor
  · intro h j hj
    exact Nat.testBit_lt_two_pow (lt_of_lt_of_le h (Nat.pow_le_pow_right (by decide) hj))
  · intro h
    exact Nat.lt_pow_two_of_testBit _ h

theorem Cfg.outOfRange_eq_false (g : Cfg) (v : Word) : g.outOfRange v = false ↔ v ≤ g.mask := by
  simp [Cfg.outOfRange]

theorem Cfg.outOfRange_eq_true (g : Cfg) (v : Word) : g.outOfRange v = true ↔ g.mask < v := by
  simp [Cfg.outOfRange]

theorem Cfg.and_mask_le (g : Cfg) (v : Word) : v &&& g.mask ≤ g.mask := by
  rw [g.le_mask_iff_bits]
  intro j hj
  simp [g.mask_getLsbD, Nat.not_lt.mpr hj]

theorem Cfg.xor_le_mask (g : Cfg) {v w : Word} (hv : v ≤ g.mask) (hw : w ≤ g.mask) : v ^^^ w ≤ g.mask := by
  rw [g.le_mask_iff_bits] at *
  intro j hj
  simp [hv j hj, hw j hj]

theorem Cfg.and_mask_of_le (g : Cfg) {v : Word} (hv : v ≤ g.mask) : v &&& g.mask = v := by
  rw [g.le_mask_iff_bits] at hv
  apply BitVec.eq_of_getLsbD_eq
  intro j _
  by_cases h : j < g.bits
  · simp [g.mask_getLsbD, h]
  · simp [hv j (by omega)]

/-- Masking is reduction modulo 2^BITS (R12). -/
theorem Cfg.and_mask_toNat (g : Cfg) (v : Word) : (v &&& g.mask).toNat = v.toNat % 2 ^ g.bits := by
  rw [BitVec.toNat_and, g.mask_toNat, Nat.and_two_pow_sub_one_eq_mod]

/-- CTRL[1:0] as a number (10_state.md R21). -/
theorem Cfg.kind_toNat (g : Cfg) : g.kind.toNat = g.ctrl.toNat % 4 := by
  rw [Cfg.kind, BitVec.extractLsb'_toNat]; simp

/-- CTRL[10:8] as a number, plus 1 (R12, 10_state.md R21). -/
theorem Cfg.bytes_eq (g : Cfg) : g.bytes = g.ctrl.toNat / 256 % 8 + 1 := by
  rw [Cfg.bytes, Cfg.wbytes, BitVec.extractLsb'_toNat, Nat.shiftRight_eq_div_pow]

/-- An index names a register exactly when it is at most 8 (20_memory.md R51). -/
theorem regAt_isSome (r : BitVec 4) : (regAt r).isSome = decide (r.toNat ≤ 8) := by
  revert r; decide

end Sys2Proof.Machine
end

