-- ==== Sys2Proof/Laws/Checksum.lean ====
section
/-! SUPPORT. The checksum step as integer arithmetic (42_checksum.md R140, R143). -/

namespace Sys2Proof.Machine

/-- What the checksum step adds is the byte as a signed number, modulo 2^64 (R140). -/
theorem csumStep_eq (x : Word) (b : Byte) : csumStep x b = x + BitVec.ofInt 64 b.toInt := by
  rw [csumStep, sext64, BitVec.signExtend]

/-- Masking the sum before a step changes nothing that a mask after it keeps (R143). -/
theorem csumStep_mask (g : Cfg) (x : Word) (b : Byte) :
    csumStep (x &&& g.mask) b &&& g.mask = csumStep x b &&& g.mask := by
  apply BitVec.eq_of_toNat_eq
  have h := Nat.pow_dvd_pow 2 g.bits_le
  simp only [csumStep, Cfg.and_mask_toNat, BitVec.toNat_add]
  rw [Nat.mod_mod_of_dvd _ h, Nat.mod_mod_of_dvd _ h, Nat.mod_add_mod]

end Sys2Proof.Machine
end

