-- ==== Sys2Proof/Laws/Reflect.lean ====
section
/-! SUPPORT. ReflectBits and ReflectBytes bit by bit (41_reflect.md R130, R131). -/

namespace Sys2Proof.Machine

/-- The first `m` rounds of R130's loop have written the bits n-m .. n-1. -/
theorem reflectBits_rounds (v : Word) (n j : Nat) (hn : n ≤ 64) :
    ∀ m ≤ n, ((List.range m).foldl (fun r i => setBit r (n - 1 - i) (v.getLsbD i)) v).getLsbD j =
      if n - m ≤ j ∧ j < n then v.getLsbD (n - 1 - j) else v.getLsbD j := by
  intro m
  induction m with
  | zero =>
    intro _
    have : ¬ (n - 0 ≤ j ∧ j < n) := by omega
    simp only [this, if_false]; rfl
  | succ m ih =>
    intro hm
    rw [List.range_succ, List.foldl_append, List.foldl_cons, List.foldl_nil, setBit_getLsbD _ _ _ (by omega),
      ih (by omega)]
    by_cases h1 : j = n - 1 - m
    · have h2 : n - (m + 1) ≤ j ∧ j < n := by omega
      have h3 : n - 1 - j = m := by omega
      rw [if_pos h1, if_pos h2, h3]
    · have h2 : (n - (m + 1) ≤ j ∧ j < n) ↔ (n - m ≤ j ∧ j < n) := by omega
      rw [if_neg h1]; simp only [h2]

/-- R130: bit j of the result is bit n-1-j of v below n, and bit j of v from n on. -/
theorem reflectBits_getLsbD (v : Word) {n : Nat} (hn : n ≤ 64) (j : Nat) :
    (reflectBits v n).getLsbD j = if j < n then v.getLsbD (n - 1 - j) else v.getLsbD j := by
  have h := reflectBits_rounds v n j hn n le_rfl
  simpa [reflectBits] using h

/-- The first `m` rounds of R131's loop have written the bytes n-m .. n-1. -/
theorem reflectBytes_rounds (v : Word) (n j : Nat) (hn : n ≤ 8) :
    ∀ m ≤ n, ((List.range m).foldl (fun r k => setByte r (n - 1 - k) (getByte v k)) v).getLsbD j =
      if 8 * (n - m) ≤ j ∧ j < 8 * n then v.getLsbD (8 * (n - 1 - j / 8) + j % 8) else v.getLsbD j := by
  intro m
  induction m with
  | zero =>
    intro _
    have : ¬ (8 * (n - 0) ≤ j ∧ j < 8 * n) := by omega
    simp only [this, if_false]; rfl
  | succ m ih =>
    intro hm
    rw [List.range_succ, List.foldl_append, List.foldl_cons, List.foldl_nil, setByte_getLsbD _ _ _ (by omega),
      ih (by omega)]
    by_cases h1 : 8 * (n - 1 - m) ≤ j ∧ j < 8 * (n - 1 - m) + 8
    · have h2 : 8 * (n - (m + 1)) ≤ j ∧ j < 8 * n := by omega
      have h3 : j - 8 * (n - 1 - m) < 8 := by omega
      have h4 : 8 * m + (j - 8 * (n - 1 - m)) = 8 * (n - 1 - j / 8) + j % 8 := by omega
      rw [if_pos h1, if_pos h2, getByte_getLsbD, h4]; simp only [h3, decide_true, Bool.true_and]
    · have h2 : (8 * (n - (m + 1)) ≤ j ∧ j < 8 * n) ↔ (8 * (n - m) ≤ j ∧ j < 8 * n) := by omega
      rw [if_neg h1]; simp only [h2]

/-- R131: bit i of byte k of the result is bit i of byte n-1-k of v below byte n, and of byte k from byte n on. -/
theorem reflectBytes_getLsbD (v : Word) {n : Nat} (hn : n ≤ 8) (j : Nat) :
    (reflectBytes v n).getLsbD j = if j < 8 * n then v.getLsbD (8 * (n - 1 - j / 8) + j % 8) else v.getLsbD j := by
  have h := reflectBytes_rounds v n j hn n le_rfl
  simpa [reflectBytes] using h

end Sys2Proof.Machine
end

