-- ==== Sys2Proof/Laws/CrcCore.lean ====
section
/-! SUPPORT. Bounds of the division core and of the finalize stage (43_crc_core.md R150 to R156, 44_finalize.md R180,
R181): values up to MASK stay up to MASK. -/

namespace Sys2Proof.Machine

theorem buildTable_get (g : Cfg) (d : Byte) : tableEntryAt (buildTable g) d = tableEntry g d := by
  simp only [tableEntryAt, buildTable, Vector.get_ofFn]

/-- Two tables with the same entries are the same table. -/
theorem table_ext {T U : Table} (h : ∀ d, tableEntryAt T d = tableEntryAt U d) : T = U := by
  apply Vector.ext
  intro i hi
  exact h (BitVec.ofFin ⟨i, hi⟩)

theorem divRound_le (g : Cfg) (hp : g.poly ≤ g.mask) (c : Word) : divRound g c ≤ g.mask := by
  unfold divRound
  split
  · exact g.xor_le_mask (g.and_mask_le _) hp
  · exact g.and_mask_le _

theorem divRound_iterate_le (g : Cfg) (hp : g.poly ≤ g.mask) (n : Nat) {c : Word} (hc : c ≤ g.mask) :
    (divRound g)^[n] c ≤ g.mask := by
  cases n with
  | zero => exact hc
  | succ n => rw [Function.iterate_succ_apply']; exact divRound_le g hp _

theorem div8_le (g : Cfg) (hp : g.poly ≤ g.mask) {c : Word} (hc : c ≤ g.mask) : div8 g c ≤ g.mask :=
  divRound_iterate_le g hp 8 hc

/-- R152 bit by bit. -/
theorem inByte_getLsbD (g : Cfg) (b : Byte) (j : Nat) :
    (inByte g b).getLsbD j = if g.refin = true ∧ j < 8 then b.getLsbD (7 - j) else b.getLsbD j := by
  unfold inByte
  by_cases h : g.refin = true
  · rw [if_pos h, reflectBits_getLsbD _ (by decide), zext64_getLsbD, zext64_getLsbD]
    simp only [h, true_and]
  · rw [if_neg h, zext64_getLsbD]
    simp only [h, false_and, if_false, Bool.false_eq_true]

/-- A byte moved to the top of the register stays within MASK. -/
theorem top_byte_le (g : Cfg) {v : Word} (hv : ∀ j, 8 ≤ j → v.getLsbD j = false) :
    v <<< (g.bits - 8) ≤ g.mask := by
  rw [g.le_mask_iff_bits]
  intro j hj
  have := g.bits_ge
  simp only [BitVec.getLsbD_shiftLeft, hv (j - (g.bits - 8)) (by omega), Bool.and_false]

theorem zext64_high (b : Byte) (j : Nat) (hj : 8 ≤ j) : (zext64 b).getLsbD j = false := by
  rw [zext64_getLsbD]; exact BitVec.getLsbD_of_ge b j hj

theorem inByte_high (g : Cfg) (b : Byte) (j : Nat) (hj : 8 ≤ j) : (inByte g b).getLsbD j = false := by
  rw [inByte_getLsbD, if_neg (by omega)]; exact BitVec.getLsbD_of_ge b j hj

theorem tableEntry_le (g : Cfg) (hp : g.poly ≤ g.mask) (d : Byte) : tableEntry g d ≤ g.mask :=
  div8_le g hp (top_byte_le g (zext64_high d))

theorem stepBit_le (g : Cfg) (hp : g.poly ≤ g.mask) {c : Word} (hc : c ≤ g.mask) (b : Byte) :
    stepBit g c b ≤ g.mask :=
  div8_le g hp (g.xor_le_mask hc (top_byte_le g (inByte_high g b)))

theorem reflectBits_le (g : Cfg) {r : Word} (hr : r ≤ g.mask) : reflectBits r g.bits ≤ g.mask := by
  rw [g.le_mask_iff_bits] at *
  intro j hj
  rw [reflectBits_getLsbD _ g.bits_le, if_neg (by omega)]
  exact hr j hj

theorem reflectBytes_le (g : Cfg) {r : Word} (hr : r ≤ g.mask) : reflectBytes r g.bytes ≤ g.mask := by
  rw [g.le_mask_iff_bits] at *
  intro j hj
  rw [reflectBytes_getLsbD _ g.bytes_le, if_neg (by simp only [Cfg.bits] at hj; omega)]
  exact hr j hj

end Sys2Proof.Machine
end

