-- ==== Sys2Proof/Laws/Decode.lean ====
section
/-! SUPPORT. Lemmas of the decoder: the OP of a word that fits a row, the fields by OP, and inversion. -/

namespace Sys2Proof.Laws

/-- The OP of an instruction's word (30_encoding.md R74). -/
def opNumber : Instr → BitVec 4
  | .nop => 0x0
  | .wrreg _ => 0x1
  | .rdreg _ => 0x2
  | .bind => 0x3
  | .profile _ => 0x4
  | .calculate _ => 0x5
  | .update _ _ _ => 0x6
  | .step _ _ => 0x7
  | .final => 0x8
  | .unfinal => 0x9
  | .rbits _ => 0xA
  | .rbytes _ => 0xB
  | .tread _ => 0xC
  | .reservedOpD _ => 0xD
  | .reservedOpE _ => 0xE
  | .reservedOpF _ => 0xF

/-- A word that fits a row whose mask has OP's four bits has that row's OP. -/
theorem opOf_of_row {w mask pat : CmdWord} (hm : mask.extractLsb' 28 4 = 0xF#4) (h : w &&& mask = pat) :
    opOf w = pat.extractLsb' 28 4 := by
  have h1 : (0xF#4 : BitVec 4) = BitVec.allOnes 4 := by decide
  rw [← h, BitVec.extractLsb'_and, hm, h1, BitVec.and_allOnes, opOf]

/-- What a word that decodes satisfies: its row's check, and its fields put together. -/
theorem decode_inv {w : CmdWord} {i : Instr} (h : decode w = .ok i) :
    w &&& (opcodeRow (opOf w)).mask = (opcodeRow (opOf w)).pat ∧ decodeFields w = .ok i := by
  unfold decode at h
  split at h
  · exact ⟨‹_›, h⟩
  · cases h

theorem decode_of_row {w : CmdWord} {op : BitVec 4} (ho : opOf w = op)
    (h : w &&& (opcodeRow op).mask = (opcodeRow op).pat) : decode w = decodeFields w := by
  subst ho; exact if_pos h

/-- The OP decides the constructor. -/
theorem opOf_of_decodeFields {w : CmdWord} {i : Instr} (h : decodeFields w = .ok i) : opOf w = opNumber i := by
  unfold decodeFields at h
  split at h <;> try (cases h; assumption)
  · split at h
    · cases h; assumption
    · cases h
  · cases h
    change opOf w = 0xF#4
    generalize opOf w = op at *
    revert op; decide

/-- A 32-bit word is its OP and the other 28 bits. -/
theorem word_eq_op_append_rest (w : CmdWord) : w = opOf w ++ restOf w := by
  apply BitVec.eq_of_getLsbD_eq
  intro j hj
  rw [BitVec.getLsbD_append, opOf, restOf, BitVec.getLsbD_extractLsb', BitVec.getLsbD_extractLsb']
  by_cases h : j < 28
  · simp [h]
  · have h1 : j - 28 < 4 := by omega
    have h2 : 28 + (j - 28) = j := by omega
    simp [h, h1, h2]

end Sys2Proof.Laws
end

