-- ==== Sys2Proof/Laws/State.lean ====
section
/-! SUPPORT. One lemma per field of State and per update of Machine/Ops.lean and Machine/Perform.lean, all true by rfl. -/

namespace Sys2Proof.Machine

/-! ### `State.respondOk` -/

@[simp] theorem State.respondOk_ctrl (s : State) : (s.respondOk).ctrl = s.ctrl := rfl
@[simp] theorem State.respondOk_poly (s : State) : (s.respondOk).poly = s.poly := rfl
@[simp] theorem State.respondOk_init (s : State) : (s.respondOk).init = s.init := rfl
@[simp] theorem State.respondOk_xorout (s : State) : (s.respondOk).xorout = s.xorout := rfl
@[simp] theorem State.respondOk_status (s : State) : (s.respondOk).status = s.status := rfl
@[simp] theorem State.respondOk_table (s : State) : (s.respondOk).table = s.table := rfl
@[simp] theorem State.respondOk_result (s : State) : (s.respondOk).result = s.result := rfl
@[simp] theorem State.respondOk_requests (s : State) : (s.respondOk).requests = s.requests := rfl
@[simp] theorem State.respondOk_cmd (s : State) : (s.respondOk).cmd = s.cmd := rfl
@[simp] theorem State.respondOk_opa (s : State) : (s.respondOk).opa = s.opa := rfl
@[simp] theorem State.respondOk_msg (s : State) : (s.respondOk).msg = s.msg := rfl
@[simp] theorem State.respondOk_resp (s : State) : (s.respondOk).resp = some (.ok none) := rfl

/-! ### `State.respondValue` -/

@[simp] theorem State.respondValue_ctrl (s : State) (v : Word) : (s.respondValue v).ctrl = s.ctrl := rfl
@[simp] theorem State.respondValue_poly (s : State) (v : Word) : (s.respondValue v).poly = s.poly := rfl
@[simp] theorem State.respondValue_init (s : State) (v : Word) : (s.respondValue v).init = s.init := rfl
@[simp] theorem State.respondValue_xorout (s : State) (v : Word) : (s.respondValue v).xorout = s.xorout := rfl
@[simp] theorem State.respondValue_status (s : State) (v : Word) : (s.respondValue v).status = s.status := rfl
@[simp] theorem State.respondValue_table (s : State) (v : Word) : (s.respondValue v).table = s.table := rfl
@[simp] theorem State.respondValue_result (s : State) (v : Word) : (s.respondValue v).result = v := rfl
@[simp] theorem State.respondValue_requests (s : State) (v : Word) : (s.respondValue v).requests = s.requests := rfl
@[simp] theorem State.respondValue_cmd (s : State) (v : Word) : (s.respondValue v).cmd = s.cmd := rfl
@[simp] theorem State.respondValue_opa (s : State) (v : Word) : (s.respondValue v).opa = s.opa := rfl
@[simp] theorem State.respondValue_msg (s : State) (v : Word) : (s.respondValue v).msg = s.msg := rfl
@[simp] theorem State.respondValue_resp (s : State) (v : Word) : (s.respondValue v).resp = some (.ok (some v)) := rfl

/-! ### `State.raise` -/

@[simp] theorem State.raise_ctrl (s : State) (c : FaultCode) : (s.raise c).ctrl = s.ctrl := rfl
@[simp] theorem State.raise_poly (s : State) (c : FaultCode) : (s.raise c).poly = s.poly := rfl
@[simp] theorem State.raise_init (s : State) (c : FaultCode) : (s.raise c).init = s.init := rfl
@[simp] theorem State.raise_xorout (s : State) (c : FaultCode) : (s.raise c).xorout = s.xorout := rfl
@[simp] theorem State.raise_status (s : State) (c : FaultCode) : (s.raise c).status = statusFaulted s.status c := rfl
@[simp] theorem State.raise_table (s : State) (c : FaultCode) : (s.raise c).table = s.table := rfl
@[simp] theorem State.raise_result (s : State) (c : FaultCode) : (s.raise c).result = s.result := rfl
@[simp] theorem State.raise_requests (s : State) (c : FaultCode) : (s.raise c).requests = s.requests := rfl
@[simp] theorem State.raise_cmd (s : State) (c : FaultCode) : (s.raise c).cmd = s.cmd := rfl
@[simp] theorem State.raise_opa (s : State) (c : FaultCode) : (s.raise c).opa = s.opa := rfl
@[simp] theorem State.raise_msg (s : State) (c : FaultCode) : (s.raise c).msg = s.msg := rfl
@[simp] theorem State.raise_resp (s : State) (c : FaultCode) : (s.raise c).resp = some (.fault c) := rfl

/-! ### `State.refuse` -/

@[simp] theorem State.refuse_ctrl (s : State) : (s.refuse).ctrl = s.ctrl := rfl
@[simp] theorem State.refuse_poly (s : State) : (s.refuse).poly = s.poly := rfl
@[simp] theorem State.refuse_init (s : State) : (s.refuse).init = s.init := rfl
@[simp] theorem State.refuse_xorout (s : State) : (s.refuse).xorout = s.xorout := rfl
@[simp] theorem State.refuse_status (s : State) : (s.refuse).status = s.status := rfl
@[simp] theorem State.refuse_table (s : State) : (s.refuse).table = s.table := rfl
@[simp] theorem State.refuse_result (s : State) : (s.refuse).result = s.result := rfl
@[simp] theorem State.refuse_requests (s : State) : (s.refuse).requests = s.requests := rfl
@[simp] theorem State.refuse_cmd (s : State) : (s.refuse).cmd = s.cmd := rfl
@[simp] theorem State.refuse_opa (s : State) : (s.refuse).opa = s.opa := rfl
@[simp] theorem State.refuse_msg (s : State) : (s.refuse).msg = s.msg := rfl
@[simp] theorem State.refuse_resp (s : State) : (s.refuse).resp = some .refused := rfl

/-! ### `State.setBinding` -/

@[simp] theorem State.setBinding_ctrl (s : State) (b t : Bool) : (s.setBinding b t).ctrl = s.ctrl := rfl
@[simp] theorem State.setBinding_poly (s : State) (b t : Bool) : (s.setBinding b t).poly = s.poly := rfl
@[simp] theorem State.setBinding_init (s : State) (b t : Bool) : (s.setBinding b t).init = s.init := rfl
@[simp] theorem State.setBinding_xorout (s : State) (b t : Bool) : (s.setBinding b t).xorout = s.xorout := rfl
@[simp] theorem State.setBinding_status (s : State) (b t : Bool) : (s.setBinding b t).status = statusBinding s.status b t := rfl
@[simp] theorem State.setBinding_table (s : State) (b t : Bool) : (s.setBinding b t).table = s.table := rfl
@[simp] theorem State.setBinding_result (s : State) (b t : Bool) : (s.setBinding b t).result = s.result := rfl
@[simp] theorem State.setBinding_requests (s : State) (b t : Bool) : (s.setBinding b t).requests = s.requests := rfl
@[simp] theorem State.setBinding_cmd (s : State) (b t : Bool) : (s.setBinding b t).cmd = s.cmd := rfl
@[simp] theorem State.setBinding_opa (s : State) (b t : Bool) : (s.setBinding b t).opa = s.opa := rfl
@[simp] theorem State.setBinding_msg (s : State) (b t : Bool) : (s.setBinding b t).msg = s.msg := rfl
@[simp] theorem State.setBinding_resp (s : State) (b t : Bool) : (s.setBinding b t).resp = s.resp := rfl

/-! ### `State.setTable` -/

@[simp] theorem State.setTable_ctrl (s : State) (T : Table) : (s.setTable T).ctrl = s.ctrl := rfl
@[simp] theorem State.setTable_poly (s : State) (T : Table) : (s.setTable T).poly = s.poly := rfl
@[simp] theorem State.setTable_init (s : State) (T : Table) : (s.setTable T).init = s.init := rfl
@[simp] theorem State.setTable_xorout (s : State) (T : Table) : (s.setTable T).xorout = s.xorout := rfl
@[simp] theorem State.setTable_status (s : State) (T : Table) : (s.setTable T).status = s.status := rfl
@[simp] theorem State.setTable_table (s : State) (T : Table) : (s.setTable T).table = T := rfl
@[simp] theorem State.setTable_result (s : State) (T : Table) : (s.setTable T).result = s.result := rfl
@[simp] theorem State.setTable_requests (s : State) (T : Table) : (s.setTable T).requests = s.requests := rfl
@[simp] theorem State.setTable_cmd (s : State) (T : Table) : (s.setTable T).cmd = s.cmd := rfl
@[simp] theorem State.setTable_opa (s : State) (T : Table) : (s.setTable T).opa = s.opa := rfl
@[simp] theorem State.setTable_msg (s : State) (T : Table) : (s.setTable T).msg = s.msg := rfl
@[simp] theorem State.setTable_resp (s : State) (T : Table) : (s.setTable T).resp = s.resp := rfl

/-! ### `State.loadCfg` -/

@[simp] theorem State.loadCfg_ctrl (s : State) (g : Cfg) : (s.loadCfg g).ctrl = g.ctrl := rfl
@[simp] theorem State.loadCfg_poly (s : State) (g : Cfg) : (s.loadCfg g).poly = g.poly := rfl
@[simp] theorem State.loadCfg_init (s : State) (g : Cfg) : (s.loadCfg g).init = g.init := rfl
@[simp] theorem State.loadCfg_xorout (s : State) (g : Cfg) : (s.loadCfg g).xorout = g.xorout := rfl
@[simp] theorem State.loadCfg_status (s : State) (g : Cfg) : (s.loadCfg g).status = s.status := rfl
@[simp] theorem State.loadCfg_table (s : State) (g : Cfg) : (s.loadCfg g).table = s.table := rfl
@[simp] theorem State.loadCfg_result (s : State) (g : Cfg) : (s.loadCfg g).result = s.result := rfl
@[simp] theorem State.loadCfg_requests (s : State) (g : Cfg) : (s.loadCfg g).requests = s.requests := rfl
@[simp] theorem State.loadCfg_cmd (s : State) (g : Cfg) : (s.loadCfg g).cmd = s.cmd := rfl
@[simp] theorem State.loadCfg_opa (s : State) (g : Cfg) : (s.loadCfg g).opa = s.opa := rfl
@[simp] theorem State.loadCfg_msg (s : State) (g : Cfg) : (s.loadCfg g).msg = s.msg := rfl
@[simp] theorem State.loadCfg_resp (s : State) (g : Cfg) : (s.loadCfg g).resp = s.resp := rfl

/-! ### `State.present` -/

@[simp] theorem State.present_ctrl (s : State) (t : Transaction) (rest : List HostAction) : (s.present t rest).ctrl = s.ctrl := rfl
@[simp] theorem State.present_poly (s : State) (t : Transaction) (rest : List HostAction) : (s.present t rest).poly = s.poly := rfl
@[simp] theorem State.present_init (s : State) (t : Transaction) (rest : List HostAction) : (s.present t rest).init = s.init := rfl
@[simp] theorem State.present_xorout (s : State) (t : Transaction) (rest : List HostAction) : (s.present t rest).xorout = s.xorout := rfl
@[simp] theorem State.present_status (s : State) (t : Transaction) (rest : List HostAction) : (s.present t rest).status = s.status := rfl
@[simp] theorem State.present_table (s : State) (t : Transaction) (rest : List HostAction) : (s.present t rest).table = s.table := rfl
@[simp] theorem State.present_result (s : State) (t : Transaction) (rest : List HostAction) : (s.present t rest).result = s.result := rfl
@[simp] theorem State.present_requests (s : State) (t : Transaction) (rest : List HostAction) : (s.present t rest).requests = rest := rfl
@[simp] theorem State.present_cmd (s : State) (t : Transaction) (rest : List HostAction) : (s.present t rest).cmd = t.cmd := rfl
@[simp] theorem State.present_opa (s : State) (t : Transaction) (rest : List HostAction) : (s.present t rest).opa = t.opa := rfl
@[simp] theorem State.present_msg (s : State) (t : Transaction) (rest : List HostAction) : (s.present t rest).msg = t.msg := rfl
@[simp] theorem State.present_resp (s : State) (t : Transaction) (rest : List HostAction) : (s.present t rest).resp = none := rfl

/-! ### `State.idle` -/

@[simp] theorem State.idle_ctrl (s : State) : (s.idle).ctrl = s.ctrl := rfl
@[simp] theorem State.idle_poly (s : State) : (s.idle).poly = s.poly := rfl
@[simp] theorem State.idle_init (s : State) : (s.idle).init = s.init := rfl
@[simp] theorem State.idle_xorout (s : State) : (s.idle).xorout = s.xorout := rfl
@[simp] theorem State.idle_status (s : State) : (s.idle).status = s.status := rfl
@[simp] theorem State.idle_table (s : State) : (s.idle).table = s.table := rfl
@[simp] theorem State.idle_result (s : State) : (s.idle).result = s.result := rfl
@[simp] theorem State.idle_requests (s : State) : (s.idle).requests = s.requests := rfl
@[simp] theorem State.idle_cmd (s : State) : (s.idle).cmd = s.cmd := rfl
@[simp] theorem State.idle_opa (s : State) : (s.idle).opa = s.opa := rfl
@[simp] theorem State.idle_msg (s : State) : (s.idle).msg = s.msg := rfl
@[simp] theorem State.idle_resp (s : State) : (s.idle).resp = none := rfl

/-! ### The views of the state -/

@[simp] theorem State.cfg_ctrl (s : State) : s.cfg.ctrl = s.ctrl := rfl
@[simp] theorem State.cfg_poly (s : State) : s.cfg.poly = s.poly := rfl
@[simp] theorem State.cfg_init (s : State) : s.cfg.init = s.init := rfl
@[simp] theorem State.cfg_xorout (s : State) : s.cfg.xorout = s.xorout := rfl
@[simp] theorem State.respondOk_cfg (s : State) : (s.respondOk).cfg = s.cfg := rfl
@[simp] theorem State.respondOk_bound (s : State) : (s.respondOk).bound = s.bound := rfl
@[simp] theorem State.respondOk_tableValid (s : State) : (s.respondOk).tableValid = s.tableValid := rfl
@[simp] theorem State.respondOk_faulted (s : State) : (s.respondOk).faulted = s.faulted := rfl
@[simp] theorem State.respondOk_errcode (s : State) : (s.respondOk).errcode = s.errcode := rfl
@[simp] theorem State.respondValue_cfg (s : State) (v : Word) : (s.respondValue v).cfg = s.cfg := rfl
@[simp] theorem State.respondValue_bound (s : State) (v : Word) : (s.respondValue v).bound = s.bound := rfl
@[simp] theorem State.respondValue_tableValid (s : State) (v : Word) : (s.respondValue v).tableValid = s.tableValid := rfl
@[simp] theorem State.respondValue_faulted (s : State) (v : Word) : (s.respondValue v).faulted = s.faulted := rfl
@[simp] theorem State.respondValue_errcode (s : State) (v : Word) : (s.respondValue v).errcode = s.errcode := rfl
@[simp] theorem State.refuse_cfg (s : State) : (s.refuse).cfg = s.cfg := rfl
@[simp] theorem State.refuse_bound (s : State) : (s.refuse).bound = s.bound := rfl
@[simp] theorem State.refuse_tableValid (s : State) : (s.refuse).tableValid = s.tableValid := rfl
@[simp] theorem State.refuse_faulted (s : State) : (s.refuse).faulted = s.faulted := rfl
@[simp] theorem State.refuse_errcode (s : State) : (s.refuse).errcode = s.errcode := rfl
@[simp] theorem State.present_cfg (s : State) (t : Transaction) (rest : List HostAction) : (s.present t rest).cfg = s.cfg := rfl
@[simp] theorem State.present_bound (s : State) (t : Transaction) (rest : List HostAction) : (s.present t rest).bound = s.bound := rfl
@[simp] theorem State.present_tableValid (s : State) (t : Transaction) (rest : List HostAction) : (s.present t rest).tableValid = s.tableValid := rfl
@[simp] theorem State.present_faulted (s : State) (t : Transaction) (rest : List HostAction) : (s.present t rest).faulted = s.faulted := rfl
@[simp] theorem State.present_errcode (s : State) (t : Transaction) (rest : List HostAction) : (s.present t rest).errcode = s.errcode := rfl
@[simp] theorem State.idle_cfg (s : State) : (s.idle).cfg = s.cfg := rfl
@[simp] theorem State.idle_bound (s : State) : (s.idle).bound = s.bound := rfl
@[simp] theorem State.idle_tableValid (s : State) : (s.idle).tableValid = s.tableValid := rfl
@[simp] theorem State.idle_faulted (s : State) : (s.idle).faulted = s.faulted := rfl
@[simp] theorem State.idle_errcode (s : State) : (s.idle).errcode = s.errcode := rfl
@[simp] theorem State.raise_cfg (s : State) (c : FaultCode) : (s.raise c).cfg = s.cfg := rfl
@[simp] theorem State.setBinding_cfg (s : State) (b t : Bool) : (s.setBinding b t).cfg = s.cfg := rfl
@[simp] theorem State.setTable_cfg (s : State) (T : Table) : (s.setTable T).cfg = s.cfg := rfl
@[simp] theorem State.setTable_bound (s : State) (T : Table) : (s.setTable T).bound = s.bound := rfl
@[simp] theorem State.setTable_tableValid (s : State) (T : Table) : (s.setTable T).tableValid = s.tableValid := rfl
@[simp] theorem State.setTable_faulted (s : State) (T : Table) : (s.setTable T).faulted = s.faulted := rfl
@[simp] theorem State.setTable_errcode (s : State) (T : Table) : (s.setTable T).errcode = s.errcode := rfl
@[simp] theorem State.loadCfg_cfg (s : State) (g : Cfg) : (s.loadCfg g).cfg = g := rfl
@[simp] theorem State.loadCfg_bound (s : State) (g : Cfg) : (s.loadCfg g).bound = s.bound := rfl
@[simp] theorem State.loadCfg_tableValid (s : State) (g : Cfg) : (s.loadCfg g).tableValid = s.tableValid := rfl
@[simp] theorem State.loadCfg_faulted (s : State) (g : Cfg) : (s.loadCfg g).faulted = s.faulted := rfl
@[simp] theorem State.loadCfg_errcode (s : State) (g : Cfg) : (s.loadCfg g).errcode = s.errcode := rfl

end Sys2Proof.Machine
end

