-- ==== Sys2Proof/Laws/Flags.lean ====
section
/-! SUPPORT. What the updates of STATUS do to its fields (10_state.md R27). -/

namespace Sys2Proof.Machine

/-- Fault entry bit by bit (60_exceptions.md R212): FAULT set, ERRCODE the code, every other bit kept. -/
theorem statusFaulted_getLsbD (w : Word) (c : FaultCode) (j : Nat) :
    (statusFaulted w c).getLsbD j =
      if j = 2 then true else if 4 ≤ j ∧ j < 8 then c.errCode.getLsbD (j - 4) else w.getLsbD j := by
  by_cases hj : j < 64
  · have h1 : ∀ i : Fin 64, (~~~0xF0#64 : Word).getLsbD i.val = !decide (4 ≤ i.val ∧ i.val < 8) := by decide
    have h2 : ∀ i : Fin 64, (0x4#64 : Word).getLsbD i.val = decide (i.val = 2) := by decide
    have e1 := h1 ⟨j, hj⟩
    have e2 := h2 ⟨j, hj⟩
    simp only at e1 e2
    rw [statusFaulted, BitVec.getLsbD_or, BitVec.getLsbD_or, BitVec.getLsbD_and, e1, e2, BitVec.getLsbD_shiftLeft,
      BitVec.getLsbD_setWidth]
    by_cases a : j = 2
    · simp [a]
    · by_cases b : 4 ≤ j ∧ j < 8
      · have : j - 4 < 64 := by omega
        have h4 : ¬ j < 4 := by omega
        simp [a, b, hj, this, h4]
      · by_cases h4 : j < 4
        · simp [a, b, h4]
        · have hc : c.errCode.getLsbD (j - 4) = false := BitVec.getLsbD_of_ge _ _ (by omega)
          simp [a, b, hc]
  · have a : ¬ j = 2 := by omega
    have b : ¬ (4 ≤ j ∧ j < 8) := by omega
    simp [a, b, getLsbD_of_ge_64 _ (Nat.le_of_not_lt hj)]

/-- BOUND and TABLE_VALID written, every other bit kept (40_config.md R102, R106). -/
theorem statusBinding_getLsbD (w : Word) (b t : Bool) (j : Nat) :
    (statusBinding w b t).getLsbD j = if j = 1 then t else if j = 0 then b else w.getLsbD j := by
  rw [statusBinding, setBit_getLsbD _ _ _ (by decide), setBit_getLsbD _ _ _ (by decide)]

/-- The three ways STATUS is bound and unbound, as masks: unbound (40_config.md R102), bound to a Checksum Config, bound to
a Crc Config (R106). -/
theorem statusBinding_unbound (w : Word) : statusBinding w false false = w &&& ~~~3#64 := by
  apply BitVec.eq_of_getLsbD_eq
  intro j hj
  have h : ∀ i : Fin 64, (~~~3#64 : Word).getLsbD i.val = decide (¬ (i.val = 1 ∨ i.val = 0)) := by decide
  have e := h ⟨j, hj⟩
  simp only at e
  rw [statusBinding_getLsbD, BitVec.getLsbD_and, e]
  by_cases h1 : j = 1 <;> by_cases h0 : j = 0 <;> simp [h1, h0]

theorem statusBinding_checksum (w : Word) : statusBinding w true false = (w ||| 1) &&& ~~~2#64 := by
  apply BitVec.eq_of_getLsbD_eq
  intro j hj
  have h : ∀ i : Fin 64, (1 : Word).getLsbD i.val = decide (i.val = 0) ∧
      (~~~2#64 : Word).getLsbD i.val = decide (¬ i.val = 1) := by decide
  have e := h ⟨j, hj⟩
  simp only at e
  rw [statusBinding_getLsbD, BitVec.getLsbD_and, BitVec.getLsbD_or, e.1, e.2]
  by_cases h1 : j = 1 <;> by_cases h0 : j = 0 <;> simp [h1, h0]

theorem statusBinding_crc (w : Word) : statusBinding w true true = w ||| 3 := by
  apply BitVec.eq_of_getLsbD_eq
  intro j hj
  have h : ∀ i : Fin 64, (3 : Word).getLsbD i.val = decide (i.val = 1 ∨ i.val = 0) := by decide
  have e := h ⟨j, hj⟩
  simp only at e
  rw [statusBinding_getLsbD, BitVec.getLsbD_or, e]
  by_cases h1 : j = 1 <;> by_cases h0 : j = 0 <;> simp [h1, h0]

@[simp] theorem State.raise_bound (s : State) (c : FaultCode) : (s.raise c).bound = s.bound := by
  simp only [State.bound, State.raise_status, statusFaulted_getLsbD]; simp

@[simp] theorem State.raise_tableValid (s : State) (c : FaultCode) : (s.raise c).tableValid = s.tableValid := by
  simp only [State.tableValid, State.raise_status, statusFaulted_getLsbD]; simp

@[simp] theorem State.raise_faulted (s : State) (c : FaultCode) : (s.raise c).faulted = true := by
  simp only [State.faulted, State.raise_status, statusFaulted_getLsbD]; simp

@[simp] theorem State.raise_errcode (s : State) (c : FaultCode) : (s.raise c).errcode = c.errCode := by
  apply BitVec.eq_of_getLsbD_eq
  intro j hj
  have h1 : ¬ 4 + j = 2 := by omega
  have h2 : 4 + j - 4 = j := by omega
  simp only [State.errcode, State.raise_status, BitVec.getLsbD_extractLsb', statusFaulted_getLsbD, h1, h2]
  simp [hj]; omega

@[simp] theorem State.setBinding_bound (s : State) (b t : Bool) : (s.setBinding b t).bound = b := by
  simp only [State.bound, State.setBinding_status, statusBinding_getLsbD]; simp

@[simp] theorem State.setBinding_tableValid (s : State) (b t : Bool) : (s.setBinding b t).tableValid = t := by
  simp only [State.tableValid, State.setBinding_status, statusBinding_getLsbD]; simp

@[simp] theorem State.setBinding_faulted (s : State) (b t : Bool) : (s.setBinding b t).faulted = s.faulted := by
  simp only [State.faulted, State.setBinding_status, statusBinding_getLsbD]; simp

@[simp] theorem State.setBinding_errcode (s : State) (b t : Bool) : (s.setBinding b t).errcode = s.errcode := by
  apply BitVec.eq_of_getLsbD_eq
  intro j hj
  have h1 : ¬ 4 + j = 1 := by omega
  have h2 : ¬ 4 + j = 0 := by omega
  simp only [State.errcode, State.setBinding_status, BitVec.getLsbD_extractLsb', statusBinding_getLsbD, h1, h2, if_false]

/-- Every fault has a code 1..7 of its own (60_exceptions.md R211). -/
theorem errCode_range (c : FaultCode) : 1 ≤ c.errCode.toNat ∧ c.errCode.toNat ≤ 7 := by
  cases c <;> decide

end Sys2Proof.Machine
end

