-- ==== Sys2Proof/Laws/Ops.lean ====
section
/-! SUPPORT. What the shared operations of Machine/Ops.lean answer, said once. -/

namespace Sys2Proof.Machine

theorem unlessFaulted_of_faulted {s : State} (t : State) (h : s.faulted = true) : unlessFaulted s t = s.refuse := by
  simp [unlessFaulted, h]

theorem unlessFaulted_of_ready {s : State} (t : State) (h : s.faulted = false) : unlessFaulted s t = t := by
  simp [unlessFaulted, h]

theorem requireBound_of_bound {s : State} (t : State) (h : s.bound = true) : requireBound s t = t := by
  simp [requireBound, h]

theorem requireBound_of_unbound {s : State} (t : State) (h : s.bound = false) :
    requireBound s t = s.raise .notBound := by
  simp [requireBound, h]

theorem requireTable_of_checksum {s : State} (t : State) (h : s.cfg.kind = 0) :
    requireTable s t = s.raise .noTable := if_pos h

theorem requireTable_of_crc {s : State} (t : State) (h : s.cfg.kind ≠ 0) : requireTable s t = t := if_neg h

theorem requireOperandInRange_of_le {s : State} (t : State) (h : s.opa ≤ s.cfg.mask) :
    requireOperandInRange s t = t := by
  simp [requireOperandInRange, (s.cfg.outOfRange_eq_false s.opa).mpr h]

theorem requireOperandInRange_of_gt {s : State} (t : State) (h : s.cfg.mask < s.opa) :
    requireOperandInRange s t = s.raise .operandRange := by
  simp [requireOperandInRange, (s.cfg.outOfRange_eq_true s.opa).mpr h]

/-- What a check of R215 answers: the command's own state, or the check's fault. -/
theorem requireBound_cases (s t : State) : requireBound s t = t ∨ requireBound s t = s.raise .notBound := by
  unfold requireBound; split <;> simp

theorem requireTable_cases (s t : State) : requireTable s t = t ∨ requireTable s t = s.raise .noTable := by
  unfold requireTable; split <;> simp

theorem requireOperandInRange_cases (s t : State) :
    requireOperandInRange s t = t ∨ requireOperandInRange s t = s.raise .operandRange := by
  unfold requireOperandInRange; split <;> simp

/-- The checks of STEP, FINAL and UNFINAL together. -/
theorem computed_cases (s t : State) :
    requireBound s (requireOperandInRange s t) = t ∨ ∃ c, requireBound s (requireOperandInRange s t) = s.raise c := by
  rcases requireBound_cases s (requireOperandInRange s t) with h | h <;> rw [h]
  · exact (requireOperandInRange_cases _ _).imp id fun h => ⟨_, h⟩
  · exact .inr ⟨_, rfl⟩

/-- A configuration register written changes one of the four and nothing else. -/
theorem writeReg_cases {s t : State} {reg : Reg} {v : Word} (h : s.writeReg reg v = some t) :
    (reg = .ctrl ∧ t = { s with ctrl := v &&& ctrlWritable }) ∨ (reg = .poly ∧ t = { s with poly := v }) ∨
      (reg = .init ∧ t = { s with init := v }) ∨ (reg = .xorout ∧ t = { s with xorout := v }) := by
  cases reg <;> simp_all [State.writeReg]

end Sys2Proof.Machine
end

