-- ==== Sys2Proof/Laws/Exec.lean ====
section
/-! SUPPORT. What a command can do, said once (`exec_effect`): the invariants and frames follow by cases on it. -/

namespace Sys2Proof.Laws

open Sys2Proof.Machine

/-- The ways a command ends: refused, a fault, OK without a value, OK with a value, or a configuration command's own
effect. -/
inductive Effect (s : State) : Instr → State → Prop where
  | refused (i : Instr) : s.faulted = true → Effect s i s.refuse
  | raised (i : Instr) (c : FaultCode) : s.faulted = false → Effect s i (s.raise c)
  | nop : s.faulted = false → Effect s .nop s.respondOk
  | value (i : Instr) (v : Word) (hv : (∃ r, i = .rdreg r) ∨ s.faulted = false) (hn : i ≠ .nop) (hb : i ≠ .bind)
      (hp : ∀ k, i ≠ .profile k) (hw : ∀ r, i ≠ .wrreg r) : Effect s i (s.respondValue v)
  | written (r : BitVec 4) (reg : Reg) (w : State) : s.faulted = false → regAt r = some reg →
      s.writeReg reg s.opa = some w → Effect s (.wrreg r) ((w.setBinding false false).respondOk)
  | bound : s.faulted = false → s.cfg.kind < 2 → (s.cfg.kind = 1 → s.cfg.rangesOk = true) →
      Effect s .bind s.construct.respondOk
  | profiled (k : BitVec 4) (g : Cfg) : s.faulted = false → profileRom[k.toNat]? = some g →
      Effect s (.profile k) (s.loadCfg g).construct.respondOk

/-- The value commands, whose checks are nested: the value, or one of the faults. -/
theorem effect_of_value {s t : State} {i : Instr} {v : Word} (hr : s.faulted = false) (hn : i ≠ .nop) (hb : i ≠ .bind)
    (hp : ∀ k, i ≠ .profile k) (hw : ∀ r, i ≠ .wrreg r) (h : t = s.respondValue v ∨ ∃ c, t = s.raise c) :
    Effect s i t := by
  rcases h with rfl | ⟨c, rfl⟩
  · exact .value i v (.inr hr) hn hb hp hw
  · exact .raised i c hr

/-- Every command answers a next state, by one of the ways of `Effect`. -/
theorem exec_effect (i : Instr) (s : State) : ∃ t, exec i s = .next t ∧ Effect s i t := by
  by_cases hf : s.faulted = true
  · cases i with
    | rdreg r =>
      simp only [exec, execRdreg]
      cases hr : regAt r with
      | some reg => exact ⟨_, rfl, .value _ _ (.inl ⟨r, rfl⟩) (by simp) (by simp) (by simp) (by simp)⟩
      | none => exact ⟨_, rfl, by rw [unlessFaulted_of_faulted _ hf]; exact .refused _ hf⟩
    | _ =>
      refine ⟨_, rfl, ?_⟩
      first
        | rw [unlessFaulted_of_faulted _ hf]; exact .refused _ hf
        | rw [performIllegal, unlessFaulted_of_faulted _ hf]; exact .refused _ hf
  · have hr : s.faulted = false := by simpa using hf
    cases i with
    | nop => exact ⟨_, rfl, by rw [unlessFaulted_of_ready _ hr]; exact .nop hr⟩
    | wrreg r =>
      refine ⟨_, rfl, ?_⟩
      rw [unlessFaulted_of_ready _ hr]
      cases h1 : regAt r with
      | none => exact .raised _ _ hr
      | some reg =>
        simp only [Option.bind_some]
        cases h2 : s.writeReg reg s.opa with
        | none => exact .raised _ _ hr
        | some w => exact .written r reg w hr h1 h2
    | rdreg r =>
      simp only [exec, execRdreg]
      cases h1 : regAt r with
      | some reg => exact ⟨_, rfl, .value _ _ (.inr hr) (by simp) (by simp) (by simp) (by simp)⟩
      | none => exact ⟨_, rfl, by rw [unlessFaulted_of_ready _ hr]; exact .raised _ _ hr⟩
    | bind =>
      refine ⟨_, rfl, ?_⟩
      rw [unlessFaulted_of_ready _ hr]
      by_cases h1 : s.cfg.kind ≥ 2
      · rw [if_pos h1]; exact .raised _ _ hr
      · rw [if_neg h1]
        by_cases h2 : s.cfg.kind = 1 ∧ s.cfg.rangesOk = false
        · rw [if_pos h2]; exact .raised _ _ hr
        · rw [if_neg h2]
          exact .bound hr (BitVec.not_le.mp h1) fun h3 => by simpa [h3] using h2
    | profile k =>
      refine ⟨_, rfl, ?_⟩
      rw [unlessFaulted_of_ready _ hr]
      cases h1 : profileRom[k.toNat]? with
      | none => exact .raised _ _ hr
      | some g => exact .profiled k g hr h1
    | update p v b =>
      refine ⟨_, rfl, ?_⟩
      rw [unlessFaulted_of_ready _ hr]
      refine effect_of_value (v := updateValue s.cfg s.table p v s.opa b) hr (by simp) (by simp) (by simp) (by simp) ?_
      cases v with
      | false => exact (requireBound_cases _ _).imp id fun h => ⟨_, h⟩
      | true => exact computed_cases _ _
    | calculate p =>
      refine ⟨_, rfl, ?_⟩
      rw [unlessFaulted_of_ready _ hr]
      exact effect_of_value (v := calcValue s.cfg s.table p s.msg) hr (by simp) (by simp) (by simp) (by simp)
        ((requireBound_cases _ _).imp id fun h => ⟨_, h⟩)
    | tread x =>
      refine ⟨_, rfl, ?_⟩
      rw [unlessFaulted_of_ready _ hr]
      refine effect_of_value (v := tableEntryAt s.table x) hr (by simp) (by simp) (by simp) (by simp) ?_
      rcases requireBound_cases s (requireTable s (s.respondValue (tableEntryAt s.table x))) with h | h <;> rw [h]
      · exact (requireTable_cases _ _).imp id fun h => ⟨_, h⟩
      · exact .inr ⟨_, rfl⟩
    | step p b =>
      refine ⟨_, rfl, ?_⟩
      rw [unlessFaulted_of_ready _ hr]
      exact effect_of_value (v := perByteStep s.cfg s.table p s.opa b) hr (by simp) (by simp) (by simp) (by simp)
        (computed_cases _ _)
    | final =>
      refine ⟨_, rfl, ?_⟩
      rw [unlessFaulted_of_ready _ hr]
      exact effect_of_value (v := finalize s.cfg s.opa) hr (by simp) (by simp) (by simp) (by simp) (computed_cases _ _)
    | unfinal =>
      refine ⟨_, rfl, ?_⟩
      rw [unlessFaulted_of_ready _ hr]
      exact effect_of_value (v := unfinalize s.cfg s.opa) hr (by simp) (by simp) (by simp) (by simp) (computed_cases _ _)
    | rbits n =>
      exact ⟨_, rfl, by rw [unlessFaulted_of_ready _ hr]; exact .value _ _ (.inr hr) (by simp) (by simp) (by simp) (by simp)⟩
    | rbytes n =>
      exact ⟨_, rfl, by rw [unlessFaulted_of_ready _ hr]; exact .value _ _ (.inr hr) (by simp) (by simp) (by simp) (by simp)⟩
    | _ => exact ⟨_, rfl, by rw [performIllegal, unlessFaulted_of_ready _ hr]; exact .raised _ _ hr⟩

/-- The inversion lemma: if a command answers a next state, it is one of `Effect`'s. -/
theorem effect_of_exec {i : Instr} {s t : State} (h : exec i s = .next t) : Effect s i t := by
  obtain ⟨u, hu, he⟩ := exec_effect i s
  rw [h] at hu
  cases hu
  exact he

end Sys2Proof.Laws
end

