-- ==== Sys2Proof/Laws/Finalize.lean ====
section
/-! SUPPORT. The finalize and unfinalize stage, said once (44_finalize.md R180, R181, R183). -/

namespace Sys2Proof.Machine

theorem finalize_checksum {g : Cfg} (h : g.kind = 0) (r : Word) : finalize g r = r := if_pos h

theorem unfinalize_checksum {g : Cfg} (h : g.kind = 0) (v : Word) : unfinalize g v = v := if_pos h

/-- The bits reflected where REFOUT = 1 (R180, first step). -/
theorem refout_getLsbD (g : Cfg) (r : Word) (k : Nat) :
    (if g.refout then reflectBits r g.bits else r).getLsbD k =
      if g.refout = true ∧ k < g.bits then r.getLsbD (g.bits - 1 - k) else r.getLsbD k := by
  cases g.refout
  · simp
  · simp only [if_true, true_and]
    exact reflectBits_getLsbD _ g.bits_le k

/-- The bytes reflected where REFOUTB = 1 (R180, third step). -/
theorem refoutb_getLsbD (g : Cfg) (v : Word) (j : Nat) :
    (if g.refoutb then reflectBytes v g.bytes else v).getLsbD j =
      if g.refoutb = true ∧ j < g.bits then v.getLsbD (8 * (g.bytes - 1 - j / 8) + j % 8) else v.getLsbD j := by
  cases g.refoutb
  · simp
  · simp only [if_true, true_and]
    exact reflectBytes_getLsbD _ g.bytes_le j

/-- Each step stays within MASK (R180, R181). -/
theorem refout_le (g : Cfg) {r : Word} (hr : r ≤ g.mask) : (if g.refout then reflectBits r g.bits else r) ≤ g.mask := by
  split
  · exact reflectBits_le g hr
  · exact hr

theorem refoutb_le (g : Cfg) {v : Word} (hv : v ≤ g.mask) :
    (if g.refoutb then reflectBytes v g.bytes else v) ≤ g.mask := by
  split
  · exact reflectBytes_le g hv
  · exact hv

end Sys2Proof.Machine
end

