-- ==== Sys2Proof/Laws/PerInstr.lean ====
section
/-! SUPPORT. Statements about every instruction as syntax, one lemma per constructor.
EncodeOp: the word of an instruction has the instruction's OP (30_encoding.md R74). -/

namespace Sys2Proof.Laws.EncodeOp

/-- The encoder puts the instruction's OP into CMD[31:28]. -/
def Statement (i : Instr) : Prop := opOf (encode i) = opNumber i

/-- The top four bits of a word built OP first. -/
theorem opOf_append (op : BitVec 4) (x : BitVec 28) : opOf (op ++ x) = op := by
  apply BitVec.eq_of_getLsbD_eq
  intro j hj
  have h : ¬ 28 + j < 28 := by omega
  rw [opOf, BitVec.getLsbD_extractLsb', BitVec.getLsbD_append]
  simp [hj, h]

theorem nop : Statement .nop := opOf_append 0x0 _
theorem wrreg (r : BitVec 4) : Statement (.wrreg r) := by revert r; unfold Statement; decide
theorem rdreg (r : BitVec 4) : Statement (.rdreg r) := by revert r; unfold Statement; decide
theorem bind : Statement .bind := opOf_append 0x3 _
theorem profile (k : BitVec 4) : Statement (.profile k) := by revert k; unfold Statement; decide
theorem calculate (p : Path) : Statement (.calculate p) := by cases p <;> (unfold Statement; decide)
theorem update (p : Path) (v : Bool) (b : Byte) : Statement (.update p v b) := by
  cases p <;> cases v <;> (revert b; unfold Statement; decide)
theorem step (p : Path) (b : Byte) : Statement (.step p b) := by cases p <;> (revert b; unfold Statement; decide)
theorem final : Statement .final := opOf_append 0x8 _
theorem unfinal : Statement .unfinal := opOf_append 0x9 _
theorem rbits (n : BitVec 6) : Statement (.rbits n) := by revert n; unfold Statement; decide
theorem rbytes (n : BitVec 3) : Statement (.rbytes n) := by revert n; unfold Statement; decide
theorem tread (x : Byte) : Statement (.tread x) := by revert x; unfold Statement; decide
theorem reservedOpD (x : BitVec 28) : Statement (.reservedOpD x) := opOf_append 0xD x
theorem reservedOpE (x : BitVec 28) : Statement (.reservedOpE x) := opOf_append 0xE x
theorem reservedOpF (x : BitVec 28) : Statement (.reservedOpF x) := opOf_append 0xF x

end Sys2Proof.Laws.EncodeOp
end

