-- ==== Sys2Proof/Laws/Step.lean ====
section
/-! SUPPORT. What a step can do, said once: `step_command` takes a step apart, `step_effect` says how it ends. -/

namespace Sys2Proof.Laws

open Sys2Proof.Machine

/-- An illegal word is REFUSED by a faulted core and raises ERR_ILLEGAL_CMD otherwise (30_encoding.md R79). -/
theorem performIllegal_cases (s : State) :
    (s.faulted = true ∧ performIllegal s = s.refuse) ∨
      (s.faulted = false ∧ performIllegal s = s.raise .illegalCmd) := by
  unfold performIllegal unlessFaulted
  cases h : s.faulted <;> simp

/-- A step that performs a command is `exec` of the decoded instruction, or the illegal word's fault. -/
theorem step_command {s : State} {t : Transaction} {rest : List HostAction} (h : s.requests = .command t :: rest) :
    (∃ i, decode t.cmd = .ok i ∧ step s = exec i (s.present t rest)) ∨
      (∃ e, decode t.cmd = .error e ∧ step s = .next (performIllegal (s.present t rest))) := by
  cases hd : decode t.cmd with
  | ok i => exact .inl ⟨i, rfl, by simp only [step, h, perform, State.present_cmd, hd]⟩
  | error e => exact .inr ⟨e, rfl, by simp only [step, h, perform, State.present_cmd, hd]⟩

/-- Every step answers a next state. -/
theorem step_next (s : State) : ∃ t, step s = .next t := by
  match h : s.requests with
  | [] => exact ⟨s.idle, by simp only [step, h]⟩
  | .reset _ :: rest => exact ⟨resetCore rest, by simp only [step, h]⟩
  | .command t :: rest =>
    rcases step_command h with ⟨i, _, h1⟩ | ⟨e, _, h1⟩
    · obtain ⟨u, hu, _⟩ := exec_effect i (s.present t rest)
      exact ⟨u, h1.trans hu⟩
    · exact ⟨_, h1⟩

/-- The inversion lemma of a step that performs a command. An illegal word ends as some instruction does that is refused
or raises a fault. -/
theorem step_effect {s s' : State} {t : Transaction} {rest : List HostAction} (h : s.requests = .command t :: rest)
    (hs : step s = .next s') :
    (∃ i, decode t.cmd = .ok i ∧ Effect (s.present t rest) i s') ∨
      (∃ e, decode t.cmd = .error e ∧
        ((s.faulted = true ∧ s' = (s.present t rest).refuse) ∨
          (s.faulted = false ∧ s' = (s.present t rest).raise .illegalCmd))) := by
  rcases step_command h with ⟨i, hd, h1⟩ | ⟨e, hd, h1⟩
  · rw [h1] at hs
    exact .inl ⟨i, hd, effect_of_exec hs⟩
  · rw [h1] at hs
    cases hs
    exact .inr ⟨e, hd, performIllegal_cases (s.present t rest)⟩

/-- The inversion lemma of a step: idle, RESET, or a command. -/
theorem step_cases {s t : State} (h : step s = .next t) :
    (s.requests = [] ∧ t = s.idle) ∨
      (∃ cut rest, s.requests = .reset cut :: rest ∧ t = resetCore rest) ∨
      (∃ tr rest, s.requests = .command tr :: rest) := by
  match hr : s.requests with
  | [] => simp only [step, hr] at h; cases h; exact .inl ⟨rfl, rfl⟩
  | .reset cut :: rest => simp only [step, hr] at h; cases h; exact .inr (.inl ⟨cut, rest, rfl, rfl⟩)
  | .command tr :: rest => exact .inr (.inr ⟨tr, rest, rfl⟩)

/-- The construction changes STATUS and, for a Crc Config, TABLE (40_config.md R106). -/
theorem construct_cases (s : State) :
    (s.cfg.kind = 1 ∧ s.construct = (s.setBinding true true).setTable (buildTable s.cfg)) ∨
      (s.cfg.kind ≠ 1 ∧ s.construct = s.setBinding true false) := by
  unfold State.construct
  split
  · exact .inl ⟨‹_›, rfl⟩
  · exact .inr ⟨‹_›, rfl⟩

end Sys2Proof.Laws
end

