-- ==== Sys2Proof/Tests/Slice0.lean ====
section
/-! SUPPORT. The model's own tests. Expected values come from the spec: 95_test_vectors.md (its V, P and section numbers
are named) or the examples of the command rules. `test_` theorems check one decoding or one step; a `witness_` theorem
shows a concrete state and operands that meet the hypotheses of the obligation it is named after. -/

namespace Sys2Proof.Tests

open Sys2Proof.Machine Sys2Proof.Safety

set_option maxRecDepth 4000

/-! ### States and messages -/

/-- Bound to a Crc Config, as BIND leaves it. -/
def crcCore (g : Cfg) (opa : Word := 0) (msg : List Byte := []) : State :=
  { State.reset with
    ctrl := g.ctrl, poly := g.poly, init := g.init, xorout := g.xorout, status := 3, table := buildTable g,
    opa := opa, msg := msg }

/-- Bound to a Checksum Config. -/
def sumCore (g : Cfg) (opa : Word := 0) (msg : List Byte := []) : State :=
  { State.reset with
    ctrl := g.ctrl, poly := g.poly, init := g.init, xorout := g.xorout, status := 1, opa := opa, msg := msg }

/-- Faulted from reset by a computing command (ERR_NOT_BOUND). -/
def faultedCore : State := State.reset.raise .notBound

/-- Faulted while bound. -/
def faultedCrcCore (g : Cfg) : State := (crcCore g).raise .operandRange

/-- Nothing but a host that presents some actions. -/
def hosted (s : State) (actions : List HostAction) : State := { s with requests := actions }

def crc16 : Cfg := ⟨0x10D, 0x8005, 0, 0⟩
def xmodem : Cfg := ⟨0x101, 0x1021, 0, 0⟩
def kermit : Cfg := ⟨0x11D, 0x1021, 0, 0⟩
def dnp : Cfg := ⟨0x11D, 0x3D65, 0, 0xFFFF⟩
def crc32 : Cfg := ⟨0x30D, 0x04C11DB7, 0xFFFFFFFF, 0xFFFFFFFF⟩
def crc8 : Cfg := ⟨0x001, 0x07, 0, 0⟩
def crc24 : Cfg := ⟨0x201, 0x864CFB, 0xB704CE, 0⟩
def crc40 : Cfg := ⟨0x401, 0x0004820009, 0, 0xFFFFFFFFFF⟩
def crc64 : Cfg := ⟨0x71D, 0x42F0E1EBA9EA3693, 0xFFFFFFFFFFFFFFFF, 0xFFFFFFFFFFFFFFFF⟩
def sum8 : Cfg := ⟨0x000, 0, 0, 0⟩
def sum16 : Cfg := ⟨0x100, 0, 0, 0⟩
def sum64 : Cfg := ⟨0x700, 0xFFFFFFFFFFFFFFFF, 0, 0⟩

/-- "123456789". -/
def digits : List Byte := [0x31, 0x32, 0x33, 0x34, 0x35, 0x36, 0x37, 0x38, 0x39]

def respOf : Host.Outcome State Fault Refusal → Option Response
  | .next t => t.resp
  | .fault _ => none
  | .refused _ => none

def statusOf : Host.Outcome State Fault Refusal → Option Word
  | .next t => some t.status
  | .fault _ => none
  | .refused _ => none

/-- A value returned. -/
def value (v : Word) : Option Response := some (.ok (some v))

/-! ### Well-formedness -/

theorem test_illformed_profile_refused : Instr.wellFormed (.profile 11) = false ∧ Instr.wellFormed (.profile 15) = false := by
  decide
theorem test_wellformed_profile_accepted : Instr.wellFormed (.profile 10) = true ∧ Instr.wellFormed (.wrreg 15) = true := by
  decide

/-! ### Decoding: a word of each row, bit 31 first, from the patterns of 30_encoding.md R72 -/

theorem test_decode_nop : decode 0b00000000000000000000000000000000 = .ok .nop := by decide
theorem test_decode_wrreg : decode 0b00010000000000000000101000000000 = .ok (.wrreg 10) := by decide
theorem test_decode_rdreg : decode 0b00100000000000000000010000000000 = .ok (.rdreg 4) := by decide
theorem test_decode_bind : decode 0b00110000000000000000000000000000 = .ok .bind := by decide
theorem test_decode_profile : decode 0b01000000000000000000101000000000 = .ok (.profile 10) := by decide
theorem test_decode_calc : decode 0b01011000000000000000000000000000 = .ok (.calculate .table) := by decide
theorem test_decode_update : decode 0b01100100000000000000000010110010 = .ok (.update .bitwise true 0xB2) := by decide
theorem test_decode_step : decode 0b01111000000000000000000000110001 = .ok (.step .table 0x31) := by decide
theorem test_decode_final : decode 0b10000000000000000000000000000000 = .ok .final := by decide
theorem test_decode_unfinal : decode 0b10010000000000000000000000000000 = .ok .unfinal := by decide
theorem test_decode_rbits : decode 0b10100000000000000010000100000000 = .ok (.rbits 33) := by decide
theorem test_decode_rbytes : decode 0b10110000000000000000010100000000 = .ok (.rbytes 5) := by decide
theorem test_decode_tread : decode 0b11000000000000000000000010000001 = .ok (.tread 0x81) := by decide
theorem test_decode_reservedD : decode 0b11010000000000000000000000000001 = .ok (.reservedOpD 1) := by decide
theorem test_decode_reservedE : decode 0b11101000000000000000000000000000 = .ok (.reservedOpE 0x8000000) := by decide
theorem test_decode_reservedF : decode 0b11111111111111111111111111111111 = .ok (.reservedOpF 0xFFFFFFF) := by decide

/-- 95_test_vectors.md 4: the illegal words whose OP is not reserved. -/
theorem test_decode_illegal :
    [0x00000001, 0x30000100, 0x40000B00, 0x40000F00, 0x50000001, 0x60000100, 0x70010031, 0x80000001, 0xA0004000,
      0xB0000800, 0x10001000].all (fun w => (decode w).toOption.isNone) = true := by decide

theorem test_encode_update : encode (.update .table true 0x32) = 0x6C000032 := by decide
theorem test_encode_rbits : encode (.rbits 63) = 0xA0003F00 := by decide
theorem test_table_word : decodeTableWord 32 0x40000A00 = some (.profile 10) ∧ decodeTableWord 32 0x40000B00 = none := by
  decide

/-! ### One step each -/

/-- The host's placed word runs at the very next step. -/
theorem test_fetch_word : step (State.reset.withFetchWord 32 0x40000A00) =
    .next { crcCore crc32 with cmd := 0x40000A00, resp := some (.ok none) } := by rfl

/-- P4 line 6: RESET leaves the faulted state. -/
theorem test_reset : step (hosted faultedCore [.reset none]) = .next State.reset := by rfl

/-- V13, and P4 line 3. -/
theorem test_nop : exec .nop State.reset = .next { State.reset with resp := some (.ok none) } := by rfl
theorem test_nop_faulted : respOf (exec .nop faultedCore) = some .refused := by decide

/-- V6: the reserved bits of CTRL are discarded. R102: index 4 faults with code 6 (95_test_vectors.md 4). -/
theorem test_wrreg_ctrl : exec (.wrreg 0) { crcCore crc16 with opa := 0xFFFFFFFFFFFFFFFF } =
    .next { crcCore crc16 with opa := 0xFFFFFFFFFFFFFFFF, ctrl := 0x71F, status := 0, resp := some (.ok none) } := by
  rfl
theorem test_wrreg_status : statusOf (exec (.wrreg 4) State.reset) = some 0x64 := by decide

/-- V6 (MASK of BITS = 64), V2 (TOPBIT), P4 lines 4 and 5. -/
theorem test_rdreg : respOf (exec (.rdreg 5) { State.reset with ctrl := 0x71F }) = value 0xFFFFFFFFFFFFFFFF ∧
    respOf (exec (.rdreg 6) State.reset) = value 0x80 := by decide
theorem test_rdreg_faulted : respOf (exec (.rdreg 4) faultedCore) = value 0x34 ∧
    respOf (exec (.rdreg 9) faultedCore) = some .refused := by decide

/-- V8, V9 and V11. -/
theorem test_bind_faults : statusOf (exec .bind { State.reset with ctrl := 3 }) = some 0x14 ∧
    statusOf (exec .bind { State.reset with ctrl := 1, poly := 0x107 }) = some 0x24 := by decide
theorem test_bind_checksum : statusOf (exec .bind { State.reset with ctrl := 0x700, poly := 0xFFFFFFFFFFFFFFFF }) = some 1 := by
  decide

/-- V3 and V4. -/
theorem test_profile_checksum : exec (.profile 1) State.reset = .next { sumCore sum16 with resp := some (.ok none) } := by
  rfl
theorem test_profile_crc : exec (.profile 9) State.reset = .next { crcCore dnp with resp := some (.ok none) } := by rfl

/-- The 64-bit Config of 95_test_vectors.md 2.4 with REFIN, REFOUT and REFOUTB, and its 24-bit one, on the two paths. -/
theorem test_calc_64 : respOf (exec (.calculate .bitwise) (crcCore crc64 0 digits)) = value 0xFA3919DFBBC95D99 := by decide
theorem test_calc_24 : respOf (exec (.calculate .table) (crcCore crc24 0 digits)) = value 0x21CF02 := by decide

/-- V20 and P3 line 4. -/
theorem test_update_crc : respOf (exec (.update .bitwise true 0x32) (crcCore xmodem 0x2672)) = value 0x20B5 ∧
    respOf (exec (.update .table false 0x31) (crcCore xmodem 0x10000)) = value 0x2672 := by decide
theorem test_update_checksum : respOf (exec (.update .bitwise true 0x80) (sumCore sum16 0xFF80)) = value 0xFF00 := by decide

/-- 95_test_vectors.md 2.4: CRC-32 and the bound check before the range check. -/
theorem test_step_crc : respOf (exec (.step .table 0xFF) (crcCore crc32 0x1234)) = value 0xB1E574B4 ∧
    respOf (exec (.step .bitwise 0xFF) (crcCore crc32 0x1234)) = value 0xB1E574B4 := by decide
theorem test_step_unbound : statusOf (exec (.step .bitwise 0x31) { State.reset with opa := 0x10000000000 }) = some 0x34 := by
  decide

/-- 44_finalize.md R184, R185, and the counter-example of 95_test_vectors.md 2.5. -/
theorem test_final : respOf (exec .final (crcCore dnp 0x1234)) = value 0xB7D3 ∧
    respOf (exec .final (crcCore ⟨0x109, 0x1021, 0, 1⟩ 0x1234)) = value 0x2C49 := by decide
theorem test_unfinal : respOf (exec .unfinal (crcCore crc32 0xCBF43926)) = value 0x9B63D02C ∧
    respOf (exec .unfinal (crcCore ⟨0x109, 0x1021, 0, 1⟩ 0x1234)) = value 0xAC48 := by decide

/-- 95_test_vectors.md 2.2: bits and bytes from n on are kept. -/
theorem test_rbits : respOf (exec (.rbits 7) { State.reset with opa := 0xFFFF000000000001 }) = value 0xFFFF000000000080 ∧
    respOf (exec (.rbits 63) { State.reset with opa := 0x0123456789ABCDEF }) = value 0xF7B3D591E6A2C480 := by decide
theorem test_rbytes : respOf (exec (.rbytes 2) { State.reset with opa := 0xAABBCCDD }) = value 0xAADDCCBB ∧
    respOf (exec (.rbytes 7) { State.reset with opa := 0x0102030405060708 }) = value 0x0807060504030201 := by decide

/-- 95_test_vectors.md 2.4 (the 40-bit Config's last entry) and 2.3. -/
theorem test_tread : respOf (exec (.tread 0xFF) (crcCore crc40)) = value 0x3827E0707 := by decide
theorem test_tread_checksum : statusOf (exec (.tread 0) (sumCore sum8)) = some 0x75 := by decide

/-- 95_test_vectors.md 4. -/
theorem test_reserved : statusOf (exec (.reservedOpD 0) State.reset) = some 0x54 ∧
    statusOf (exec (.reservedOpE 0) State.reset) = some 0x54 ∧
    respOf (exec (.reservedOpF 0) State.reset) = some (.fault .illegalCmd) := by decide
theorem test_illegal_word : statusOf (send State.reset ⟨0x40000B00, 0, []⟩) = some 0x54 := by decide

/-- 42_checksum.md R144. -/
theorem test_checksum_sign : respOf (exec (.calculate .table) (sumCore sum16 0 [0xFF])) = value 0xFFFF ∧
    respOf (exec (.calculate .bitwise) (sumCore sum64 0 [0x80, 0x80])) = value 0xFFFFFFFFFFFFFF00 := by decide

/-- 95_test_vectors.md 2.4, DivRound under CRC-CCITT. -/
theorem test_divRound : divRound xmodem 0xFFFF = 0xEFDF ∧ divRound xmodem 0x4000 = 0x8000 := by decide

/-- 95_test_vectors.md 3, P1 line 2, P2 line 9 and P5 line 5, and SETCRC's first command (30_encoding.md R83). -/
theorem test_assemble_calc : assembleLine "CALC.T  \"1;2\" ; a comment".toList = some [⟨0x58000000, 0, [0x31, 0x3B, 0x32]⟩] := by
  decide
theorem test_assemble_update : assembleLine "UPDATE.T 0x32, 0x97".toList = some [⟨0x6C000032, 0x97, []⟩] ∧
    assembleLine "UPDATE 0x32, 0x97".toList = none := by decide
/-- The line of 40_config.md R102's example. -/
theorem test_assemble_separator :
    assembleLine "WRREG CTRL, 0xFFFF_FFFF_FFFF_FFFF".toList = some [⟨0x10000000, 0xFFFFFFFFFFFFFFFF, []⟩] ∧
    assembleLine "WRREG CTRL, 0x_1".toList = none := by decide
theorem test_assemble_rbits : assembleLine "RBITS 16, 0xD7BD".toList = some [⟨0xA0000F00, 0xD7BD, []⟩] ∧
    assembleLine "RBITS 65, 0".toList = none := by decide
theorem test_assemble_profile : assembleLine "PROFILE CRC-CCITT Kermit".toList = some [⟨0x40000800, 0, []⟩] := by decide
theorem test_assemble_setsum : assembleLine "SETSUM 16".toList = some [⟨0x10000000, 0x100, []⟩, ⟨0x30000000, 0, []⟩] ∧
    assembleLine "SETSUM 12".toList = none := by decide

/-! ### Good states -/

/-- A core that a valid Crc Config is bound to meets the invariants. -/
theorem crcCore_inv (g : Cfg) (opa : Word) (msg : List Byte) (hk : g.kind = 1) (hr : g.rangesOk = true)
    (hc : g.ctrl &&& ~~~ctrlWritable = 0) : StateInv (crcCore g opa msg) := by
  have hg : (crcCore g opa msg).cfg = g := rfl
  have hf : (crcCore g opa msg).faulted = false := by show (3 : Word).getLsbD 2 = false; decide
  have hrange : g.poly ≤ g.mask ∧ g.init ≤ g.mask ∧ g.xorout ≤ g.mask := by
    simpa [Cfg.rangesOk, Cfg.outOfRange_eq_false, and_assoc] using hr
  exact {
    bound_kind := fun _ => .inr hk
    bound_ranges := fun _ _ => hrange
    tableValid_iff := ⟨fun _ => ⟨(by show (3 : Word).getLsbD 0 = true; decide), hk⟩,
      fun _ => by show (3 : Word).getLsbD 1 = true; decide⟩
    table_current := fun _ d => buildTable_get g d
    errcode_zero := fun _ => by show (3 : Word).extractLsb' 4 4 = 0; decide
    errcode_known := fun h => by rw [hf] at h; cases h
    table_written := .inr ⟨g, hk, hr, fun d => ⟨buildTable_get g d, by
      show tableEntryAt (buildTable g) d ≤ g.mask
      rw [buildTable_get]; exact tableEntry_le g hrange.1 d⟩⟩
    ctrl_reserved := hc
    status_reserved := fun j hj => by
      show (3 : Word).getLsbD j = false
      by_cases h : j < 64
      · have e : ∀ i : Fin 64, 2 ≤ i.val → (3 : Word).getLsbD i.val = false := by decide
        exact e ⟨j, h⟩ (by simp only; omega)
      · exact getLsbD_of_ge_64 _ (Nat.le_of_not_lt h) }

/-- So does a core that a Checksum Config is bound to. -/
theorem sumCore_inv (g : Cfg) (opa : Word) (msg : List Byte) (hk : g.kind = 0) (hc : g.ctrl &&& ~~~ctrlWritable = 0) :
    StateInv (sumCore g opa msg) := by
  have hn : ¬ (sumCore g opa msg).cfg.kind = 1 := by
    show ¬ g.kind = 1
    rw [hk]; decide
  have hf : (sumCore g opa msg).faulted = false := by show (1 : Word).getLsbD 2 = false; decide
  have hv : (sumCore g opa msg).tableValid = false := by show (1 : Word).getLsbD 1 = false; decide
  exact {
    bound_kind := fun _ => .inl hk
    bound_ranges := fun _ h => absurd h hn
    tableValid_iff := ⟨fun h => absurd (hv.symm.trans h) (by decide), fun h => absurd h.2 hn⟩
    table_current := fun h => by rw [hv] at h; cases h
    errcode_zero := fun _ => by show (1 : Word).extractLsb' 4 4 = 0; decide
    errcode_known := fun h => by rw [hf] at h; cases h
    table_written := .inl rfl
    ctrl_reserved := hc
    status_reserved := fun j hj => by
      show (1 : Word).getLsbD j = false
      by_cases h : j < 64
      · have e : ∀ i : Fin 64, 2 ≤ i.val → (1 : Word).getLsbD i.val = false := by decide
        exact e ⟨j, h⟩ (by simp only; omega)
      · exact getLsbD_of_ge_64 _ (Nat.le_of_not_lt h) }

theorem crc32_inv (opa : Word) (msg : List Byte) : StateInv (crcCore crc32 opa msg) :=
  crcCore_inv _ _ _ (by decide) (by decide) (by decide)
theorem crc64_inv (opa : Word) (msg : List Byte) : StateInv (crcCore crc64 opa msg) :=
  crcCore_inv _ _ _ (by decide) (by decide) (by decide)
theorem crc8_inv (opa : Word) (msg : List Byte) : StateInv (crcCore crc8 opa msg) :=
  crcCore_inv _ _ _ (by decide) (by decide) (by decide)
theorem sum16_inv (opa : Word) (msg : List Byte) : StateInv (sumCore sum16 opa msg) :=
  sumCore_inv _ _ _ (by decide) (by decide)

/-- The host's actions are no part of the invariants. -/
theorem hosted_inv {s : State} (actions : List HostAction) (h : StateInv s) : StateInv (hosted s actions) :=
  ⟨h.bound_kind, h.bound_ranges, h.tableValid_iff, h.table_current, h.errcode_zero, h.errcode_known, h.table_written,
    h.ctrl_reserved, h.status_reserved⟩

/-! ### Witnesses -/

/-- A command with the operands of the examples. -/
def nopCommand : Transaction := transact .nop
def rdregCommand (r : BitVec 4) : Transaction := transact (.rdreg r)

theorem witness_ResetAbandonsTheCommandInProgress :
    (hosted (crcCore crc32) [.reset (some nopCommand)]).requests = [.reset (some nopCommand)] := rfl

theorem witness_StepKeepsTheInvariants :
    ∃ s t, StateInv s ∧ step s = .next t ∧ t.tableValid = true :=
  ⟨hosted (crcCore crc64 0 digits) [.command (transact (.calculate .table) 0 digits)], _,
    hosted_inv _ (crc64_inv _ _), rfl, rfl⟩

theorem witness_StepPerformsTheDecodedCommand :
    (hosted faultedCore [.command nopCommand, .reset none]).requests = [.command nopCommand, .reset none] ∧
    decode nopCommand.cmd = .ok .nop ∧ State.reset.requests = [] := by
  exact ⟨rfl, rfl, rfl⟩

theorem witness_EveryCommandGetsOneResponse :
    (hosted State.reset [.command ⟨0x40000B00, 0, []⟩]).requests = [.command ⟨0x40000B00, 0, []⟩] := rfl

theorem witness_CommandSeesNoLaterCommand : ∃ u, step (hosted State.reset [.command nopCommand, .reset none]) = .next u ∧
    u.requests = [.reset none] := ⟨_, rfl, rfl⟩

theorem witness_DecodeOfEncode : Instr.wellFormed (.profile 10) = true ∧
    Instr.wellFormed (.update .table true 0xFF) = true := by decide

theorem witness_EncodeOfDecode : decode 0x6C0000FF = .ok (.update .table true 0xFF) := by decide

/-- Both ways a word of OP 0x0..0xC is illegal, at the boundary of each, and both legal neighbours. -/
theorem witness_IllegalWordsRaiseIllegalCommand :
    (opOf 0xC0000100).toNat ≤ 0xC ∧ (opcodeRow (opOf 0xC0000100)).mask.getLsbD 8 = true ∧
    (opcodeRow (opOf 0xC0000100)).pat.getLsbD 8 = false ∧ (0xC0000100 : CmdWord).getLsbD 8 = true ∧
    opOf 0x40000B00 = 0x4 ∧ 10 < (indexOf 0x40000B00).toNat ∧ ¬ 10 < (indexOf 0x40000A00).toNat ∧
    (∀ j : Fin 32, ¬ ((opcodeRow (opOf 0xC00000FF)).mask.getLsbD j.val = true ∧
      (opcodeRow (opOf 0xC00000FF)).pat.getLsbD j.val = false ∧ (0xC00000FF : CmdWord).getLsbD j.val = true)) ∧
    State.reset.faulted = false ∧ faultedCore.faulted = true := by decide

theorem witness_ReservedOpcodesRaiseIllegalCommand : State.reset.faulted = false := by decide

theorem witness_FaultEntryWritesOnlyFaultAndErrcode :
    (crcCore crc8 0x100).faulted = false ∧
    ∃ s', step (hosted (crcCore crc8) [.command (transact .final 0x100)]) = .next s' ∧
      s'.resp = some (.fault .operandRange) := ⟨by decide, _, rfl, rfl⟩

theorem witness_FaultedCoreRefuses : faultedCore.faulted = true ∧ decode (rdregCommand 9).cmd = .ok (.rdreg 9) ∧
    8 < (9 : BitVec 4).toNat ∧ (∀ r : BitVec 4, decode nopCommand.cmd ≠ .ok (.rdreg r)) ∧
    ∃ t, step (hosted faultedCore [.reset none]) = .next t ∧ t.faulted = false :=
  ⟨by decide, rfl, by decide, by decide, _, rfl, rfl⟩

theorem witness_RdregIsPerformedWhileFaulted : (faultedCrcCore crc32).faulted = true ∧
    decode (rdregCommand 8).cmd = .ok (.rdreg 8) ∧ decode (rdregCommand 9).cmd = .ok (.rdreg 9) ∧
    decode 0x40000B00 = .error (.profileId 11) := ⟨by decide, rfl, rfl, by decide⟩

theorem witness_ErrcodeHoldsTheFirstFault : faultedCore.faulted = true ∧ faultedCore.errcode = 3 ∧
    ∃ t, step (hosted faultedCore [.command ⟨0xD0000000, 0, []⟩]) = .next t ∧ t.errcode = 3 :=
  ⟨by decide, by decide, _, rfl, rfl⟩

theorem witness_FaultsEachCommandCanRaise : FaultCode.noTable ∈ raisable (.tread 0) ∧
    ∃ t, exec (.tread 0) (sumCore sum8) = .next t ∧ t.resp = some (.fault .noTable) := ⟨by decide, _, rfl, rfl⟩

theorem witness_ResultLatchHoldsTheReturnedValue :
    (∃ t, exec .final (crcCore dnp 0x1234) = .next t ∧ t.resp = some (.ok (some 0xB7D3))) ∧
    (∃ t, exec .nop State.reset = .next t ∧ t.resp = some (.ok none)) ∧
    ∃ t, exec (.rdreg 9) State.reset = .next t ∧ ∀ v, t.resp ≠ some (.ok (some v)) :=
  ⟨⟨_, rfl, by decide⟩, ⟨_, rfl, rfl⟩, ⟨State.reset.raise .badReg, rfl, fun v h => by cases h⟩⟩

theorem witness_CommandsWriteOnlyWhatTheAccessTableLists :
    (∃ t, exec (.wrreg 3) (crcCore crc16) = .next t ∧ t.resp = some (.ok none)) ∧
    (∃ t, exec (.rbits 63) (crcCore crc16) = .next t ∧ t.resp = some (.ok (some 0))) ∧
    (∃ t, exec .bind (sumCore sum16) = .next t ∧ t.resp = some (.ok none) ∧ t.cfg.kind ≠ 1) ∧
    ∃ t, exec (.profile 2) (crcCore crc16) = .next t ∧ t.resp = some (.ok none) ∧ t.cfg.kind ≠ 1 :=
  ⟨⟨_, rfl, rfl⟩, ⟨_, rfl, by decide⟩, ⟨_, rfl, rfl, by decide⟩, ⟨_, rfl, rfl, by decide⟩⟩

theorem witness_UnreadPortsHaveNoEffect : readsOpa (.update .table false 0xFF) = false ∧ readsMsg (.step .table 0) = false ∧
    (∃ t, exec (.update .table false 0xFF) (crcCore crc16 0xFFFFFFFFFFFFFFFF) = .next t) ∧
    ∃ t, exec (.step .table 0) (crcCore crc16 0 digits) = .next t := ⟨by decide, by decide, ⟨_, rfl⟩, ⟨_, rfl⟩⟩

theorem witness_InvalidTableIsNeverObservable :
    StateInv (hosted (sumCore sum16) [.command (transact (.tread 0))]) ∧
    (hosted (sumCore sum16) [.command (transact (.tread 0))]).tableValid = false ∧
    ∃ t, step (hosted (sumCore sum16) [.command (transact (.tread 0))]) = .next t ∧ t.tableValid = false :=
  ⟨hosted_inv _ (sum16_inv _ _), by decide, _, rfl, rfl⟩

theorem witness_NopHasNoEffect : State.reset.faulted = false ∧ faultedCore.faulted = true := by decide

theorem witness_WrregStoresAndUnbinds : (crcCore crc16 0xFF).faulted = false ∧ (crcCore crc16 0xFF).bound = true ∧
    3 < (4 : BitVec 4).toNat ∧ 3 < (15 : BitVec 4).toNat := by decide

/-- Both ends of the index range, and of the reserved one. -/
theorem witness_RdregReturnsTheIndexedRegister : ([1, 2, 3, 4, 5, 6, 7, 8, 9] : List Nat)[(0 : BitVec 4).toNat]? = some 1 ∧
    ([1, 2, 3, 4, 5, 6, 7, 8, 9] : List Nat)[(8 : BitVec 4).toNat]? = some 9 ∧ 8 < (9 : BitVec 4).toNat ∧
    State.reset.faulted = false := by decide

theorem witness_BindValidatesAndConstructs :
    (2 ≤ (0x002 : Word).toNat % 4 ∧ (crcCore crc16).ctrl.toNat % 4 = 1 ∧ (sumCore sum16).ctrl.toNat % 4 = 0) ∧
    (crcCore crc16).faulted = false ∧ (sumCore sum16).faulted = false ∧
    ((crcCore crc32).poly ≤ (crcCore crc32).cfg.mask ∧ (crcCore crc32).init ≤ (crcCore crc32).cfg.mask ∧
      (crcCore crc32).xorout ≤ (crcCore crc32).cfg.mask) ∧
    ¬ (0x100 : Word) ≤ (crcCore crc8).cfg.mask ∧ (crcCore crc32).bound = true ∧ StateInv (crcCore crc32) :=
  ⟨by decide, by decide, by decide, by decide, by decide, by decide, crc32_inv _ _⟩

theorem witness_ProfileLoadsAndBindsTheRomRow : State.reset.faulted = false ∧
    profileRom[(10 : BitVec 4).toNat]? = some crc32 ∧ profileRom[(0 : BitVec 4).toNat]? = some sum8 := by decide

theorem witness_BoundConfigIsImmutable : (crcCore crc16).bound = true ∧
    (∀ k, decode nopCommand.cmd ≠ .ok (.profile k)) ∧
    ∃ t, step (hosted (crcCore crc16) [.command nopCommand]) = .next t ∧ t.bound = true :=
  ⟨by decide, by decide, _, rfl, rfl⟩

theorem witness_UnboundCoreComputesNothing : State.reset.faulted = false ∧ State.reset.bound = false ∧
    needsBound (.tread 0) = true ∧ (0 : BitVec 4).toNat ≤ 3 ∧ (3 : BitVec 4).toNat ≤ 3 ∧
    ∃ t, exec (.wrreg 3) (crcCore crc16) = .next t :=
  ⟨by decide, by decide, by decide, by decide, by decide, _, rfl⟩

/-- Both ends of the widths, and a width between and beyond them that is rejected. -/
theorem witness_PseudoInstructionsExpand : (1 ≤ 1 ∧ 1 ≤ 8 ∧ 8 ≤ 8) ∧ (∀ n ≤ 8, 1 ≤ n → 12 ≠ 8 * n) ∧
    ∀ n ≤ 8, 1 ≤ n → 72 ≠ 8 * n := by decide

theorem witness_SetcrcBindsTheNamedConfig : State.reset.faulted = false ∧
    (0xFF : Word).toNat < 2 ^ (8 * 1) ∧ (0xFFFFFFFFFFFFFFFF : Word).toNat < 2 ^ (8 * 8) ∧
    (expandSetcrc (8 * 8) 0xFFFFFFFFFFFFFFFF 0 0 true true false).isSome = true := by decide

theorem witness_RbitsReversesTheLowBits : State.reset.faulted = false ∧ (63 : BitVec 6).toNat + 1 = 64 := by decide
theorem witness_RbytesReversesTheLowBytes : State.reset.faulted = false ∧ (7 : BitVec 3).toNat + 1 = 8 := by decide
theorem witness_ReflectionsAreSelfInverse : reflectBits 0x31 64 = 0x8C00000000000000 ∧ reflectBytes 0x31 1 = 0x31 := by decide

theorem witness_ChecksumStepAddsTheSignedByte : (sumCore sum16 0xFFFF).faulted = false ∧ (sumCore sum16 0xFFFF).bound = true ∧
    (sumCore sum16 0xFFFF).cfg.kind = 0 ∧ (sumCore sum16 0xFFFF).opa ≤ (sumCore sum16 0xFFFF).cfg.mask := by decide
theorem witness_ChecksumOfAMessageIsTheSignedSum : (sumCore sum64 0 digits).faulted = false ∧
    (sumCore sum64 0 digits).bound = true ∧ (sumCore sum64 0 digits).cfg.kind = 0 := by decide
theorem witness_ChecksumUpdateAddsToThePrior : (sumCore sum8 0xFF).faulted = false ∧ (sumCore sum8 0xFF).bound = true ∧
    (sumCore sum8 0xFF).cfg.kind = 0 ∧ (sumCore sum8 0xFF).opa ≤ (sumCore sum8 0xFF).cfg.mask := by decide

theorem witness_DivisionRoundShiftsAndSubtracts : crc64.poly ≤ crc64.mask ∧ (0x7FFFFFFFFFFFFFFF : Word) ≤ crc64.mask ∧
    (0x7FFFFFFFFFFFFFFF : Word).toNat < 2 ^ (crc64.bits - 1) ∧ 2 ^ (crc64.bits - 1) ≤ (0x8000000000000000 : Word).toNat := by
  decide
theorem witness_InputByteIsReflectedUnderRefin : xmodem.refin = false ∧ crc16.refin = true ∧ 0 < 8 ∧ 7 < 8 := by decide
theorem witness_TableHoldsTheRemainderOfEveryByte : crc8.poly ≤ crc8.mask ∧ crc64.poly ≤ crc64.mask ∧
    kermit.poly = xmodem.poly ∧ kermit.wbytes = xmodem.wbytes := by decide
theorem witness_TreadReturnsTheTableEntry : State.reset.faulted = false ∧ State.reset.bound = false ∧
    ((sumCore sum8).bound = true ∧ (sumCore sum8).cfg.kind = 0 ∧ (sumCore sum8).faulted = false) ∧
    ((crcCore crc8).bound = true ∧ (crcCore crc8).cfg.kind ≠ 0 ∧ (crcCore crc8).faulted = false) ∧
    StateInv (crcCore crc8) := ⟨by decide, by decide, by decide, by decide, crc8_inv _ _⟩

/-- Both sides of the range check. -/
theorem witness_StepChecksThenSteps : State.reset.faulted = false ∧ State.reset.bound = false ∧
    ((crcCore crc8).faulted = false ∧ (crcCore crc8).bound = true ∧ (crcCore crc8).cfg.kind = 1) ∧
    (crcCore crc8 0x100).cfg.mask < (crcCore crc8 0x100).opa ∧ (crcCore crc8 0xFF).opa ≤ (crcCore crc8 0xFF).cfg.mask ∧
    (crcCore crc8 0).opa = 0 ∧ StateInv (crcCore crc8 0) :=
  ⟨by decide, by decide, by decide, by decide, by decide, by decide, crc8_inv _ _⟩

theorem witness_StepIsPolynomialDivision : StateInv (crcCore crc64 0xFFFFFFFFFFFFFFFF) ∧
    (crcCore crc64 0xFFFFFFFFFFFFFFFF).faulted = false ∧ (crcCore crc64 0xFFFFFFFFFFFFFFFF).bound = true ∧
    (crcCore crc64 0xFFFFFFFFFFFFFFFF).cfg.kind = 1 ∧
    (crcCore crc64 0xFFFFFFFFFFFFFFFF).opa ≤ (crcCore crc64 0xFFFFFFFFFFFFFFFF).cfg.mask :=
  ⟨crc64_inv _ _, by decide, by decide, by decide, by decide⟩
theorem witness_TableStepEqualsBitwiseStep : StateInv (crcCore crc8) ∧ (crcCore crc8).bound = true ∧
    (crcCore crc8).cfg.kind = 1 ∧ (0xFF : Word) ≤ (crcCore crc8).cfg.mask :=
  ⟨crc8_inv _ _, by decide, by decide, by decide⟩

theorem witness_FinalReflectsThenXorsThenReverses : (crcCore crc64 0x31).faulted = false ∧ State.reset.bound = false ∧
    (crcCore crc64 0x31).bound = true ∧ (crcCore crc64 0x31).opa ≤ (crcCore crc64 0x31).cfg.mask ∧
    (crcCore crc64 0x31).cfg.kind ≠ 0 ∧ (crcCore crc8 0x100).cfg.mask < (crcCore crc8 0x100).opa ∧
    (sumCore sum16 0xFFFF).opa ≤ (sumCore sum16 0xFFFF).cfg.mask ∧ StateInv (crcCore crc64 0x31) :=
  ⟨by decide, by decide, by decide, by decide, by decide, by decide, by decide, crc64_inv _ _⟩
theorem witness_UnfinalUndoesTheStepsInReverse : (crcCore crc32 0xFFFFFFFF).faulted = false ∧ State.reset.bound = false ∧
    (crcCore crc32 0xFFFFFFFF).bound = true ∧ (crcCore crc32 0xFFFFFFFF).opa ≤ (crcCore crc32 0xFFFFFFFF).cfg.mask ∧
    (crcCore crc32 0xFFFFFFFF).cfg.kind ≠ 0 ∧ (crcCore crc32 0x100000000).cfg.mask < (crcCore crc32 0x100000000).opa ∧
    (sumCore sum16 0xFFFF).cfg.kind = 0 ∧ StateInv (crcCore crc32 0xFFFFFFFF) :=
  ⟨by decide, by decide, by decide, by decide, by decide, by decide, by decide, crc32_inv _ _⟩
theorem witness_FinalizeRoundTrips : StateInv (crcCore crc64) ∧ (crcCore crc64).bound = true ∧
    (0xFFFFFFFFFFFFFFFF : Word) ≤ (crcCore crc64).cfg.mask := ⟨crc64_inv _ _, by decide, by decide⟩
theorem witness_ChecksumFinalizeIsTheIdentity : (sumCore sum16 0xFFFF).faulted = false ∧ (sumCore sum16 0xFFFF).bound = true ∧
    (sumCore sum16 0xFFFF).cfg.kind = 0 ∧ (sumCore sum16 0xFFFF).opa ≤ (sumCore sum16 0xFFFF).cfg.mask ∧
    (sumCore sum16 0xFFFF).msg = [] := by decide

theorem witness_CalcStepsThroughTheMessage : State.reset.faulted = false ∧ State.reset.bound = false ∧
    (crcCore crc32 0 digits).faulted = false ∧ (crcCore crc32 0 digits).bound = true ∧
    (crcCore crc32 0 digits).cfg.kind ≠ 0 := by decide
theorem witness_UpdateResumesFromThePrior : State.reset.faulted = false ∧ State.reset.bound = false ∧
    (crcCore crc8 0xFF).faulted = false ∧ (crcCore crc8 0xFF).bound = true ∧ (crcCore crc8 0xFF).cfg.kind ≠ 0 ∧
    (crcCore crc8 0xFF).opa ≤ (crcCore crc8 0xFF).cfg.mask ∧ (crcCore crc8 0x100).cfg.mask < (crcCore crc8 0x100).opa := by
  decide
theorem witness_CalcIsTheRemainderOfTheMessage : StateInv (crcCore crc32 0 digits) ∧
    (crcCore crc32 0 digits).faulted = false ∧ (crcCore crc32 0 digits).bound = true ∧
    (crcCore crc32 0 digits).cfg.kind = 1 := ⟨crc32_inv _ _, by decide, by decide, by decide⟩
theorem witness_UpdateFoldEqualsCalc : StateInv (crcCore crc32) ∧ (crcCore crc32).faulted = false ∧
    (crcCore crc32).bound = true ∧ StateInv (sumCore sum16) ∧ (sumCore sum16).bound = true ∧
    ([0x31] : List Byte) ≠ [] := ⟨crc32_inv _ _, by decide, by decide, sum16_inv _ _, by decide, by decide⟩
theorem witness_EmptyMessageGivesFinalizedInit : (crcCore crc32).faulted = false ∧ (crcCore crc32).bound = true ∧
    (crcCore crc32).msg = [] ∧ (crcCore crc32).cfg.kind = 1 ∧ (sumCore sum16).faulted = false ∧
    (sumCore sum16).bound = true ∧ (sumCore sum16).msg = [] ∧ (sumCore sum16).cfg.kind = 0 := by decide
theorem witness_PathBitChangesNoResult : StateInv (crcCore crc64 0xFF digits) ∧ (crcCore crc64 0xFF digits).bound = true :=
  ⟨crc64_inv _ _, by decide⟩
theorem witness_UpdateKeepsNoHiddenStream : StateInv (crcCore crc32 5) ∧ StateInv (crcCore crc32 6 digits) ∧
    (crcCore crc32 5).faulted = false ∧ (crcCore crc32 6 digits).faulted = false ∧ (crcCore crc32 5).bound = true ∧
    (crcCore crc32 6 digits).bound = true ∧ (crcCore crc32 5).cfg = (crcCore crc32 6 digits).cfg :=
  ⟨crc32_inv _ _, crc32_inv _ _, by decide, by decide, by decide, by decide, rfl⟩

end Sys2Proof.Tests
end

namespace Sys2Proof.Proofs

open Sys2Proof.Machine Sys2Proof.Safety Sys2Proof.Laws

/-! ## The construction of BIND and PROFILE (40_config.md R106, R108): one lemma per field -/

section Construct

variable (s : State)

/-- Both branches of the construction at once: TABLE_VALID is set, and TABLE built, exactly for KIND = 1. -/
theorem construct_eq : s.construct = (s.setBinding true (decide (s.cfg.kind = 1))).setTable
    (if s.cfg.kind = 1 then buildTable s.cfg else s.table) := by
  rcases construct_cases s with ⟨hk, h⟩ | ⟨hk, h⟩
  · rw [h, decide_eq_true hk, if_pos hk]
  · rw [h, decide_eq_false hk, if_neg hk]
    rfl

@[simp] theorem construct_cfg : s.construct.cfg = s.cfg := by rw [construct_eq]; rfl
@[simp] theorem construct_ctrl : s.construct.ctrl = s.ctrl := by rw [construct_eq]; rfl
@[simp] theorem construct_poly : s.construct.poly = s.poly := by rw [construct_eq]; rfl
@[simp] theorem construct_init : s.construct.init = s.init := by rw [construct_eq]; rfl
@[simp] theorem construct_xorout : s.construct.xorout = s.xorout := by rw [construct_eq]; rfl
@[simp] theorem construct_result : s.construct.result = s.result := by rw [construct_eq]; rfl
@[simp] theorem construct_requests : s.construct.requests = s.requests := by rw [construct_eq]; rfl
@[simp] theorem construct_cmd : s.construct.cmd = s.cmd := by rw [construct_eq]; rfl
@[simp] theorem construct_opa : s.construct.opa = s.opa := by rw [construct_eq]; rfl
@[simp] theorem construct_msg : s.construct.msg = s.msg := by rw [construct_eq]; rfl

@[simp] theorem construct_status :
    s.construct.status = statusBinding s.status true (decide (s.cfg.kind = 1)) := by
  rw [construct_eq]; rfl

@[simp] theorem construct_table :
    s.construct.table = if s.cfg.kind = 1 then buildTable s.cfg else s.table := by
  rw [construct_eq]; rfl

@[simp] theorem construct_bound : s.construct.bound = true := by
  rw [construct_eq, State.setTable_bound, State.setBinding_bound]

@[simp] theorem construct_tableValid : s.construct.tableValid = decide (s.cfg.kind = 1) := by
  rw [construct_eq, State.setTable_tableValid, State.setBinding_tableValid]

@[simp] theorem construct_faulted : s.construct.faulted = s.faulted := by
  rw [construct_eq, State.setTable_faulted, State.setBinding_faulted]

@[simp] theorem construct_errcode : s.construct.errcode = s.errcode := by
  rw [construct_eq, State.setTable_errcode, State.setBinding_errcode]

end Construct

theorem statusBinding_statusBinding (w : Word) (b t b' t' : Bool) :
    statusBinding (statusBinding w b t) b' t' = statusBinding w b' t' := by
  apply BitVec.eq_of_getLsbD_eq
  intro j _
  simp only [statusBinding_getLsbD]
  split
  · rfl
  · split <;> rfl

theorem setBinding_setBinding (s : State) (b t b' t' : Bool) :
    (s.setBinding b t).setBinding b' t' = s.setBinding b' t' := by
  simp [State.setBinding, statusBinding_statusBinding]

/-- The construction writes both flags, so what they held before does not matter. -/
theorem construct_setBinding (s : State) (b t : Bool) : (s.setBinding b t).construct = s.construct := by
  unfold State.construct
  simp only [setBinding_setBinding, State.setBinding_cfg]

/-! ## A step by the host's next action -/

section StepEquations

variable {s : State} {rest : List HostAction}

theorem step_of_idle (hreq : s.requests = []) : step s = .next s.idle := by
  simp only [step, hreq]

theorem step_of_reset {cut : Option Transaction} (hreq : s.requests = .reset cut :: rest) :
    step s = .next (resetCore rest) := by
  simp only [step, hreq]

theorem step_of_decode_ok {tr : Transaction} {i : Instr} (hreq : s.requests = .command tr :: rest)
    (hd : decode tr.cmd = .ok i) : step s = exec i (s.present tr rest) := by
  simp only [step, hreq, perform, State.present_cmd, hd]

theorem step_of_decode_error {tr : Transaction} {e : DecodeError} (hreq : s.requests = .command tr :: rest)
    (hd : decode tr.cmd = .error e) : step s = .next (performIllegal (s.present tr rest)) := by
  simp only [step, hreq, perform, State.present_cmd, hd]

end StepEquations

/-! ## Writing the configuration registers -/

/-- WRREG's write is a load of the four registers with three of them as they were; CTRL takes its writable bits only. -/
theorem writeReg_loadCfg {s w : State} {reg : Reg} {v : Word} (h : s.writeReg reg v = some w) :
    ∃ g, w = s.loadCfg g ∧ (g.ctrl = s.ctrl ∨ reg = .ctrl ∧ g.ctrl = v &&& ctrlWritable) ∧
      (reg ≠ .poly → g.poly = s.poly) ∧ (reg ≠ .init → g.init = s.init) ∧ (reg ≠ .xorout → g.xorout = s.xorout) := by
  rcases writeReg_cases h with ⟨rfl, rfl⟩ | ⟨rfl, rfl⟩ | ⟨rfl, rfl⟩ | ⟨rfl, rfl⟩
  · exact ⟨⟨v &&& ctrlWritable, s.poly, s.init, s.xorout⟩, rfl, by simp⟩
  · exact ⟨⟨s.ctrl, v, s.init, s.xorout⟩, rfl, by simp⟩
  · exact ⟨⟨s.ctrl, s.poly, v, s.xorout⟩, rfl, by simp⟩
  · exact ⟨⟨s.ctrl, s.poly, s.init, v⟩, rfl, by simp⟩

theorem regAt_config_iff (r : BitVec 4) :
    (regAt r = some .ctrl ↔ r = 0) ∧ (regAt r = some .poly ↔ r = 1) ∧ (regAt r = some .init ↔ r = 2) ∧
      (regAt r = some .xorout ↔ r = 3) := by
  revert r; decide

theorem rangesOk_iff (g : Cfg) :
    g.rangesOk = true ↔ g.poly ≤ g.mask ∧ g.init ≤ g.mask ∧ g.xorout ≤ g.mask := by
  simp [Cfg.rangesOk, Cfg.outOfRange_eq_false, and_assoc]

theorem kind_of_lt_two : ∀ k : BitVec 2, k < 2 → k = 0 ∨ k = 1 := by decide

/-- Every row of the ROM (40_config.md R107) is a Config that BIND accepts, with CTRL's reserved bits clear. -/
theorem profileRom_valid : ∀ g ∈ profileRom,
    g.kind < 2 ∧ g.rangesOk = true ∧ g.ctrl &&& ~~~ctrlWritable = 0 := by decide

/-! ## The invariants (10_state.md R40) -/

section Invariants

variable {s t : State}

/-- The invariants speak of the configuration registers, STATUS and TABLE only. -/
theorem stateInv_of_same_registers (h : StateInv s) (hcfg : t.cfg = s.cfg) (hstatus : t.status = s.status)
    (htable : t.table = s.table) : StateInv t := by
  cases s; cases t
  simp only [State.cfg, Cfg.mk.injEq] at hcfg hstatus htable
  obtain ⟨rfl, rfl, rfl, rfl⟩ := hcfg
  subst hstatus htable
  exact ⟨h.bound_kind, h.bound_ranges, h.tableValid_iff, h.table_current, h.errcode_zero, h.errcode_known,
    h.table_written, h.ctrl_reserved, h.status_reserved⟩

theorem stateInv_reset : StateInv State.reset where
  bound_kind h := absurd h (by decide)
  bound_ranges h := absurd h (by decide)
  tableValid_iff := ⟨fun h => absurd h (by decide), fun h => absurd h.1 (by decide)⟩
  table_current h := absurd h (by decide)
  errcode_zero _ := by decide
  errcode_known h := absurd h (by decide)
  table_written := .inl rfl
  ctrl_reserved := by decide
  status_reserved j _ := BitVec.getLsbD_zero

theorem stateInv_present (h : StateInv s) (tr : Transaction) (rest : List HostAction) :
    StateInv (s.present tr rest) :=
  stateInv_of_same_registers h rfl rfl rfl

/-- Fault entry (60_exceptions.md R212) keeps the invariants: it gives ERRCODE a code that is known. -/
theorem stateInv_raise (h : StateInv s) (c : FaultCode) : StateInv (s.raise c) where
  bound_kind := by simpa using h.bound_kind
  bound_ranges := by simpa using h.bound_ranges
  tableValid_iff := by simpa using h.tableValid_iff
  table_current := by simpa using h.table_current
  errcode_zero := by simp
  errcode_known _ := ⟨c, s.raise_errcode c⟩
  table_written := h.table_written
  ctrl_reserved := h.ctrl_reserved
  status_reserved j hj := by
    rw [State.raise_status, statusFaulted_getLsbD, if_neg (by omega), if_neg (by omega)]
    exact h.status_reserved j hj

/-- An unbound core may hold any Config whose reserved bits of CTRL are clear. -/
theorem stateInv_loadCfg_unbound (h : StateInv s) {g : Cfg} (hg : g.ctrl &&& ~~~ctrlWritable = 0) :
    StateInv ((s.loadCfg g).setBinding false false) where
  bound_kind := by simp
  bound_ranges := by simp
  tableValid_iff := by simp
  table_current := by simp
  errcode_zero := by simpa using h.errcode_zero
  errcode_known := by simpa using h.errcode_known
  table_written := h.table_written
  ctrl_reserved := hg
  status_reserved j hj := by
    rw [State.setBinding_status, statusBinding_getLsbD, if_neg (by omega), if_neg (by omega)]
    exact h.status_reserved j hj

/-- The table that the construction leaves: built for the Config at hand, or as it was. -/
theorem construct_table_written (h : StateInv s) (hr : s.cfg.kind = 1 → s.cfg.rangesOk = true) :
    s.construct.table = State.reset.table ∨ ∃ g : Cfg, g.kind = 1 ∧ g.rangesOk = true ∧
      ∀ d, tableEntryAt s.construct.table d = tableEntry g d ∧ tableEntryAt s.construct.table d ≤ g.mask := by
  by_cases hk : s.cfg.kind = 1
  · have hpoly : s.cfg.poly ≤ s.cfg.mask := ((rangesOk_iff _).mp (hr hk)).1
    rw [construct_table, if_pos hk]
    exact .inr ⟨s.cfg, hk, hr hk, fun d => by
      rw [buildTable_get]
      exact ⟨rfl, tableEntry_le _ hpoly d⟩⟩
  · rw [construct_table, if_neg hk]
    exact h.table_written

/-- The construction keeps the invariants where the variant and the ranges have been checked (40_config.md R105). -/
theorem stateInv_construct (h : StateInv s) (hk : s.cfg.kind < 2) (hr : s.cfg.kind = 1 → s.cfg.rangesOk = true) :
    StateInv s.construct where
  bound_kind _ := by rw [construct_cfg]; exact kind_of_lt_two _ hk
  bound_ranges _ h1 := by
    rw [construct_cfg] at *
    rw [construct_poly, construct_init, construct_xorout]
    exact (rangesOk_iff _).mp (hr h1)
  tableValid_iff := by simp
  table_current hv d := by
    have h1 : s.cfg.kind = 1 := by simpa using hv
    rw [construct_table, if_pos h1, construct_cfg, buildTable_get]
  errcode_zero := by simpa using h.errcode_zero
  errcode_known := by simpa using h.errcode_known
  table_written := construct_table_written h hr
  ctrl_reserved := by
    rw [construct_ctrl]
    exact h.ctrl_reserved
  status_reserved j hj := by
    rw [construct_status, statusBinding_getLsbD, if_neg (by omega), if_neg (by omega)]
    exact h.status_reserved j hj

/-- A Config loaded and bound at once, as PROFILE does: the flags' old values do not matter, so it is the binding of a
Config that an unbound core holds. -/
theorem stateInv_loadCfg_construct (h : StateInv s) {g : Cfg} (hk : g.kind < 2) (hr : g.rangesOk = true)
    (hg : g.ctrl &&& ~~~ctrlWritable = 0) : StateInv (s.loadCfg g).construct := by
  rw [← construct_setBinding _ false false]
  exact stateInv_construct (stateInv_loadCfg_unbound h hg) hk fun _ => hr

theorem stateInv_of_effect {i : Instr} (h : StateInv s) (he : Effect s i t) : StateInv t := by
  cases he with
  | refused => exact stateInv_of_same_registers h rfl rfl rfl
  | raised _ c => exact stateInv_raise h c
  | nop => exact stateInv_of_same_registers h rfl rfl rfl
  | value => exact stateInv_of_same_registers h rfl rfl rfl
  | written r reg w _ _ hw =>
    obtain ⟨g, rfl, hctrl, -⟩ := writeReg_loadCfg hw
    have hg : g.ctrl &&& ~~~ctrlWritable = 0 := by
      rcases hctrl with hc | ⟨-, hc⟩
      · rw [hc]; exact h.ctrl_reserved
      · rw [hc, BitVec.and_assoc, BitVec.and_not_self]
        exact BitVec.and_zero
    exact stateInv_of_same_registers (stateInv_loadCfg_unbound h hg) rfl rfl rfl
  | bound _ hk hr => exact stateInv_of_same_registers (stateInv_construct h hk hr) rfl rfl rfl
  | profiled k g _ hg =>
    obtain ⟨hk, hr, hc⟩ := profileRom_valid g (List.mem_of_getElem? hg)
    exact stateInv_of_same_registers (stateInv_loadCfg_construct h hk hr hc) rfl rfl rfl

theorem stateInv_step (h : StateInv s) (hs : step s = .next t) : StateInv t := by
  rcases step_cases hs with ⟨-, rfl⟩ | ⟨cut, rest, -, rfl⟩ | ⟨tr, rest, hreq⟩
  · exact stateInv_of_same_registers h rfl rfl rfl
  · exact stateInv_of_same_registers stateInv_reset rfl rfl rfl
  · have hp := stateInv_present h tr rest
    rcases step_effect hreq hs with ⟨i, -, he⟩ | ⟨e, -, ⟨-, rfl⟩ | ⟨-, rfl⟩⟩
    · exact stateInv_of_effect hp he
    · exact stateInv_of_same_registers hp rfl rfl rfl
    · exact stateInv_raise hp .illegalCmd

end Invariants

/-- Settles O4: by the ways a step ends, each of which keeps the invariants. -/
theorem stepKeepsTheInvariants : Obligations.StepKeepsTheInvariants :=
  fun _ _ h hs => stateInv_step h hs

/-! ## Commands that complete -/

/-- The ways a command completes with OK, with the value its response carries and the state it leaves. -/
inductive Completes (s : State) : Instr → Option Word → State → Prop where
  | value (i : Instr) (v : Word) (hv : producesValue i = true) : Completes s i (some v) (s.respondValue v)
  | nop : Completes s .nop none s.respondOk
  | written (r : BitVec 4) (reg : Reg) (w : State) (hr : regAt r = some reg) (hw : s.writeReg reg s.opa = some w) :
      Completes s (.wrreg r) none (w.setBinding false false).respondOk
  | bound : Completes s .bind none s.construct.respondOk
  | profiled (k : BitVec 4) (g : Cfg) (hg : profileRom[k.toNat]? = some g) :
      Completes s (.profile k) none (s.loadCfg g).construct.respondOk

section Completion

variable {i : Instr} {s t : State} {v : Option Word}

/-- A reserved OP never completes (30_encoding.md R75). -/
theorem isReserved_eq_false_of_ok (h : exec i s = .next t) (hr : t.resp = some (.ok v)) : isReserved i = false := by
  have never : performIllegal s ≠ t := by
    rintro rfl
    rcases performIllegal_cases s with ⟨-, hp⟩ | ⟨-, hp⟩ <;> simp [hp] at hr
  cases i with
  | reservedOpD x => exact absurd (Host.Outcome.next.inj h) never
  | reservedOpE x => exact absurd (Host.Outcome.next.inj h) never
  | reservedOpF x => exact absurd (Host.Outcome.next.inj h) never
  | _ => rfl

/-- The inversion lemma of a command that answers OK. -/
theorem completes_of_ok (h : exec i s = .next t) (hr : t.resp = some (.ok v)) : Completes s i v t := by
  have hi := isReserved_eq_false_of_ok h hr
  cases effect_of_exec h with
  | refused | raised => cases hr
  | nop => cases hr; exact .nop
  | value _ x _ hn hb hp hw =>
    have hprod : producesValue i = true := by
      cases i with
      | nop => exact absurd rfl hn
      | wrreg r => exact absurd rfl (hw r)
      | bind => exact absurd rfl hb
      | profile k => exact absurd rfl (hp k)
      | reservedOpD | reservedOpE | reservedOpF => cases hi
      | _ => rfl
    cases hr
    exact .value i x hprod
  | written r reg w _ hreg hwrite => cases hr; exact .written r reg w hreg hwrite
  | bound => cases hr; exact .bound
  | profiled k g _ hg => cases hr; exact .profiled k g hg

theorem Completes.isSome_eq (h : Completes s i v t) : v.isSome = producesValue i := by
  cases h with
  | value _ _ hv => exact hv.symm
  | _ => rfl

theorem Completes.result_of_some {x : Word} (h : Completes s i (some x) t) : t.result = x := by
  cases h; rfl

theorem Completes.result_of_none (h : Completes s i none t) : t.result = s.result := by
  cases h with
  | nop => rfl
  | written r reg w _ hw =>
    obtain ⟨g, rfl, -⟩ := writeReg_loadCfg hw
    rfl
  | bound => simp
  | profiled k g => simp

/-- Only a command that returns a value writes RESULT (10_state.md R32). -/
theorem exec_keeps_result (h : exec i s = .next t) (hv : ∀ x, t.resp ≠ some (.ok (some x))) :
    t.result = s.result := by
  cases effect_of_exec h with
  | refused => rfl
  | raised => rfl
  | value _ x => exact absurd rfl (hv x)
  | nop | written | bound | profiled => exact (completes_of_ok h rfl).result_of_none

theorem unlessFaulted_raise_resp (s : State) (c : FaultCode) :
    (unlessFaulted s (s.raise c)).resp = some (if s.faulted then .refused else .fault c) := by
  unfold unlessFaulted
  split <;> rfl

/-- RDREG's response does not depend on RESULT, which has no index (20_memory.md R51). -/
theorem rdreg_ignores_result {r : BitVec 4} (x : Word) (h : exec (.rdreg r) s = .next t) :
    ∃ t', exec (.rdreg r) { s with result := x } = .next t' ∧ t'.resp = t.resp := by
  simp only [exec, execRdreg] at *
  cases hr : regAt r with
  | some reg =>
    simp only [hr] at h
    cases h
    have hread : State.readReg { s with result := x } reg = s.readReg reg := by cases reg <;> rfl
    exact ⟨_, rfl, by rw [State.respondValue_resp, State.respondValue_resp, hread]⟩
  | none =>
    simp only [hr] at h
    cases h
    exact ⟨_, rfl, by rw [unlessFaulted_raise_resp, unlessFaulted_raise_resp]; rfl⟩

end Completion

/-- Settles O20: by how a command completes, and, where it does not, by its leaving RESULT alone. -/
theorem resultLatchHoldsTheReturnedValue : Obligations.ResultLatchHoldsTheReturnedValue := by
  refine ⟨fun i s t h => ⟨fun v hv => ?_, fun v hv => ?_, exec_keeps_result h⟩,
    fun r s t x h => rdreg_ignores_result x h⟩
  · exact (completes_of_ok h hv).isSome_eq
  · exact (completes_of_ok h hv).result_of_some

/-! ## The frame of a command that completes (10_state.md R39) -/

namespace Completes

variable {i : Instr} {s t : State} {v : Option Word}

theorem ports (h : Completes s i v t) :
    t.requests = s.requests ∧ t.cmd = s.cmd ∧ t.opa = s.opa ∧ t.msg = s.msg := by
  cases h with
  | value | nop => exact ⟨rfl, rfl, rfl, rfl⟩
  | written r reg w _ hw =>
    obtain ⟨g, rfl, -⟩ := writeReg_loadCfg hw
    exact ⟨rfl, rfl, rfl, rfl⟩
  | bound | profiled => simp

theorem status_above_binding (h : Completes s i v t) {j : Nat} (hj : 2 ≤ j) :
    t.status.getLsbD j = s.status.getLsbD j := by
  have binding (b c : Bool) : (statusBinding s.status b c).getLsbD j = s.status.getLsbD j := by
    rw [statusBinding_getLsbD, if_neg (by omega), if_neg (by omega)]
  cases h with
  | value | nop => rfl
  | written r reg w _ hw =>
    obtain ⟨g, rfl, -⟩ := writeReg_loadCfg hw
    exact binding false false
  | bound | profiled => rw [State.respondOk_status, construct_status]; exact binding true _

theorem value_or_nop_frame (h : Completes s i v t) (hi : producesValue i = true ∨ i = .nop) :
    t.cfg = s.cfg ∧ t.status = s.status ∧ t.table = s.table := by
  cases h with
  | value | nop => exact ⟨rfl, rfl, rfl⟩
  | written | bound | profiled => simp [producesValue] at hi

theorem wrreg_frame {r : BitVec 4} (h : Completes s (.wrreg r) v t) :
    t.table = s.table ∧ (r ≠ 0 → t.ctrl = s.ctrl) ∧ (r ≠ 1 → t.poly = s.poly) ∧
      (r ≠ 2 → t.init = s.init) ∧ (r ≠ 3 → t.xorout = s.xorout) := by
  cases h with
  | value _ _ hv => simp [producesValue] at hv
  | written r reg w hr hw =>
    obtain ⟨g, rfl, hctrl, hpoly, hinit, hxorout⟩ := writeReg_loadCfg hw
    obtain ⟨h0, h1, h2, h3⟩ := regAt_config_iff r
    refine ⟨rfl, fun hn => ?_, fun hn => hpoly ?_, fun hn => hinit ?_, fun hn => hxorout ?_⟩
    · exact hctrl.resolve_right fun ⟨hc, _⟩ => hn (h0.mp (hc ▸ hr))
    · rintro rfl; exact hn (h1.mp hr)
    · rintro rfl; exact hn (h2.mp hr)
    · rintro rfl; exact hn (h3.mp hr)

theorem bind_cfg (h : Completes s .bind v t) : t.cfg = s.cfg := by
  cases h with
  | value => rfl
  | bound => simp

/-- BIND and PROFILE write TABLE for a Crc Config only. -/
theorem construct_keeps_table {k : BitVec 4} (h : Completes s i v t) (hi : i = .bind ∨ i = .profile k)
    (hk : t.cfg.kind ≠ 1) : t.table = s.table := by
  cases h with
  | value | nop => rfl
  | written => simp at hi
  | bound =>
    rw [State.respondOk_cfg, construct_cfg] at hk
    rw [State.respondOk_table, construct_table, if_neg hk]
  | profiled _ g =>
    rw [State.respondOk_cfg, construct_cfg] at hk
    rw [State.respondOk_table, construct_table, if_neg hk, State.loadCfg_table]

end Completes

/-- Settles O21: each clause by how a command completes. -/
theorem commandsWriteOnlyWhatTheAccessTableLists :
    Obligations.CommandsWriteOnlyWhatTheAccessTableLists := by
  intro i s t v h hr
  have hc := completes_of_ok h hr
  refine ⟨hc.ports, fun j hj => hc.status_above_binding hj, fun hn => ?_, hc.value_or_nop_frame, ?_, ?_,
    fun k hi hk => hc.construct_keeps_table hi hk⟩
  · cases v with
    | none => exact hc.result_of_none
    | some x => rw [← hc.isSome_eq] at hn; cases hn
  · rintro r rfl; exact hc.wrreg_frame
  · rintro rfl; exact hc.bind_cfg

/-! ## A bound Config (10_state.md R28) -/

/-- Only WRREG, which unbinds, and PROFILE change the Config. -/
theorem cfg_of_effect_bound {i : Instr} {s t : State} (he : Effect s i t) (hp : ∀ k, i ≠ .profile k)
    (hb : t.bound = true) : t.cfg = s.cfg := by
  cases he with
  | refused | raised | nop | value => rfl
  | written => simp at hb
  | bound => simp
  | profiled k => exact absurd rfl (hp k)

/-- Settles O29: by the ways a step ends. -/
theorem boundConfigIsImmutable : Obligations.BoundConfigIsImmutable := by
  intro s s' t rest hreq _ hp hs hb
  rcases step_effect hreq hs with ⟨i, hd, he⟩ | ⟨e, -, ⟨-, rfl⟩ | ⟨-, rfl⟩⟩
  · exact (cfg_of_effect_bound he (fun k hk => hp k (hk ▸ hd)) hb).trans (s.present_cfg t rest)
  · rfl
  · rfl

/-! ## An invalid TABLE (10_state.md R31) -/

/-- `t'`, where a core ends that started with `T` in TABLE, tells no more than `t`, where the same core ends with its own:
TABLE is left alone and still invalid, or the whole next state is the same. -/
def HidesTable (T : Table) (t t' : State) : Prop := (t.tableValid = false ∧ t' = withTable t T) ∨ t' = t

section InvalidTable

variable {s t t' : State} {T : Table}

@[simp] theorem withTable_cfg : (withTable s T).cfg = s.cfg := rfl
@[simp] theorem withTable_table : (withTable s T).table = T := rfl
@[simp] theorem withTable_bound : (withTable s T).bound = s.bound := rfl
@[simp] theorem withTable_faulted : (withTable s T).faulted = s.faulted := rfl
@[simp] theorem withTable_opa : (withTable s T).opa = s.opa := rfl
@[simp] theorem withTable_msg : (withTable s T).msg = s.msg := rfl

theorem readReg_withTable (reg : Reg) : (withTable s T).readReg reg = s.readReg reg := by cases reg <;> rfl

theorem writeReg_withTable (reg : Reg) (v : Word) :
    (withTable s T).writeReg reg v = (s.writeReg reg v).map fun w => withTable w T := by
  cases reg <;> rfl

/-- An invalid TABLE and a bound core: the Config is a Checksum (R40 (a), (c)). -/
theorem kind_eq_zero_of_invalid (h : StateInv s) (hv : s.tableValid = false) (hb : s.bound = true) :
    s.cfg.kind = 0 := by
  refine (h.bound_kind hb).resolve_right fun hk => ?_
  rw [h.tableValid_iff.mpr ⟨hb, hk⟩] at hv
  cases hv

section Checks

variable (hv : s.tableValid = false)
include hv

theorem hidesTable_raise (c : FaultCode) : HidesTable T (s.raise c) ((withTable s T).raise c) :=
  .inl ⟨(s.raise_tableValid c).trans hv, rfl⟩

theorem hidesTable_respondValue {v v' : Word} (h : v' = v) :
    HidesTable T (s.respondValue v) ((withTable s T).respondValue v') :=
  .inl ⟨hv, by rw [h]; rfl⟩

theorem hidesTable_unlessFaulted (h : HidesTable T t t') :
    HidesTable T (unlessFaulted s t) (unlessFaulted (withTable s T) t') := by
  unfold unlessFaulted
  rw [withTable_faulted]
  split
  · exact .inl ⟨hv, rfl⟩
  · exact h

theorem hidesTable_requireBound (h : s.bound = true → HidesTable T t t') :
    HidesTable T (requireBound s t) (requireBound (withTable s T) t') := by
  unfold requireBound
  rw [withTable_bound]
  split
  · exact h ‹_›
  · exact hidesTable_raise hv _

theorem hidesTable_requireOperandInRange (h : HidesTable T t t') :
    HidesTable T (requireOperandInRange s t) (requireOperandInRange (withTable s T) t') := by
  unfold requireOperandInRange
  rw [withTable_cfg, withTable_opa]
  split
  · exact hidesTable_raise hv _
  · exact h

theorem hidesTable_performIllegal : HidesTable T (performIllegal s) (performIllegal (withTable s T)) :=
  hidesTable_unlessFaulted hv (hidesTable_raise hv _)

end Checks

/-- The construction builds the whole TABLE, or leaves it and clears TABLE_VALID. -/
theorem hidesTable_construct : HidesTable T s.construct.respondOk (withTable s T).construct.respondOk := by
  by_cases hk : s.cfg.kind = 1
  · refine .inr ?_
    rw [construct_eq, construct_eq, withTable_cfg, if_pos hk, if_pos hk]
    rfl
  · refine .inl ⟨by rw [State.respondOk_tableValid, construct_tableValid, decide_eq_false hk], ?_⟩
    rw [construct_eq, construct_eq, withTable_cfg, if_neg hk, if_neg hk]
    rfl

/-! For a Checksum Config no value depends on TABLE (42_checksum.md). -/

theorem perByteStep_checksum {g : Cfg} (h : g.kind = 0) (T : Table) (p : Path) (c : Word) (b : Byte) :
    perByteStep g T p c b = csumStep c b &&& g.mask := if_pos h

theorem calcValue_checksum {g : Cfg} (h : g.kind = 0) (T : Table) (p : Path) (M : List Byte) :
    calcValue g T p M = csumCalc g M := if_pos h

theorem updateValue_checksum {g : Cfg} (h : g.kind = 0) (T : Table) (p : Path) (present : Bool) (a : Word) (b : Byte) :
    updateValue g T p present a b = csumUpdate g present a b := if_pos h

end InvalidTable

/-- Every command, on two cores that differ in an invalid TABLE: the checks come out alike, and the values agree because
the only Config that can be bound is a Checksum. -/
theorem exec_hidesTable {s : State} (T : Table) (h : StateInv s) (hv : s.tableValid = false) (i : Instr) :
    ∃ t t', exec i s = .next t ∧ exec i (withTable s T) = .next t' ∧ HidesTable T t t' := by
  have checksum := kind_eq_zero_of_invalid h hv
  cases i with
  | nop => exact ⟨_, _, rfl, rfl, hidesTable_unlessFaulted hv (.inl ⟨hv, rfl⟩)⟩
  | wrreg r =>
    refine ⟨_, _, rfl, rfl, hidesTable_unlessFaulted hv ?_⟩
    cases regAt r with
    | none => exact hidesTable_raise hv _
    | some reg =>
      simp only [Option.bind_some, writeReg_withTable, withTable_opa]
      cases s.writeReg reg s.opa with
      | none => exact hidesTable_raise hv _
      | some w => exact .inl ⟨w.setBinding_tableValid false false, rfl⟩
  | rdreg r =>
    simp only [exec, execRdreg]
    cases regAt r with
    | none => exact ⟨_, _, rfl, rfl, hidesTable_unlessFaulted hv (hidesTable_raise hv _)⟩
    | some reg => exact ⟨_, _, rfl, rfl, hidesTable_respondValue hv (readReg_withTable reg)⟩
  | bind =>
    refine ⟨_, _, rfl, rfl, hidesTable_unlessFaulted hv ?_⟩
    rw [withTable_cfg]
    split
    · exact hidesTable_raise hv _
    · split
      · exact hidesTable_raise hv _
      · exact hidesTable_construct
  | profile k =>
    refine ⟨_, _, rfl, rfl, hidesTable_unlessFaulted hv ?_⟩
    cases profileRom[k.toNat]? with
    | none => exact hidesTable_raise hv _
    | some g => exact hidesTable_construct (s := s.loadCfg g)
  | calculate p =>
    refine ⟨_, _, rfl, rfl, hidesTable_unlessFaulted hv (hidesTable_requireBound hv fun hb =>
      hidesTable_respondValue hv ?_)⟩
    rw [withTable_cfg, calcValue_checksum (checksum hb), calcValue_checksum (checksum hb), withTable_msg]
  | update p present b =>
    refine ⟨_, _, rfl, rfl, hidesTable_unlessFaulted hv (hidesTable_requireBound hv fun hb => ?_)⟩
    have hvalue : updateValue s.cfg T p present s.opa b = updateValue s.cfg s.table p present s.opa b := by
      rw [updateValue_checksum (checksum hb), updateValue_checksum (checksum hb)]
    cases present with
    | false => exact hidesTable_respondValue hv hvalue
    | true => exact hidesTable_requireOperandInRange hv (hidesTable_respondValue hv hvalue)
  | step p b =>
    refine ⟨_, _, rfl, rfl, hidesTable_unlessFaulted hv (hidesTable_requireBound hv fun hb =>
      hidesTable_requireOperandInRange hv (hidesTable_respondValue hv ?_))⟩
    rw [withTable_cfg, perByteStep_checksum (checksum hb), perByteStep_checksum (checksum hb), withTable_opa]
  | final | unfinal =>
    exact ⟨_, _, rfl, rfl, hidesTable_unlessFaulted hv (hidesTable_requireBound hv fun _ =>
      hidesTable_requireOperandInRange hv (hidesTable_respondValue hv rfl))⟩
  | rbits | rbytes =>
    exact ⟨_, _, rfl, rfl, hidesTable_unlessFaulted hv (hidesTable_respondValue hv rfl)⟩
  | tread x =>
    refine ⟨_, _, rfl, rfl, hidesTable_unlessFaulted hv (hidesTable_requireBound hv fun hb => ?_)⟩
    rw [requireTable_of_checksum _ (checksum hb), requireTable_of_checksum (s := withTable s T) _ (checksum hb)]
    exact hidesTable_raise hv _
  | reservedOpD | reservedOpE | reservedOpF => exact ⟨_, _, rfl, rfl, hidesTable_performIllegal hv⟩

theorem step_hidesTable {s : State} (T : Table) (h : StateInv s) (hv : s.tableValid = false) :
    ∃ t t', step s = .next t ∧ step (withTable s T) = .next t' ∧ HidesTable T t t' := by
  match hreq : s.requests with
  | [] => exact ⟨_, _, step_of_idle hreq, step_of_idle hreq, .inl ⟨hv, rfl⟩⟩
  | .reset _ :: rest => exact ⟨_, _, step_of_reset hreq, step_of_reset hreq, .inr rfl⟩
  | .command tr :: rest =>
    cases hd : decode tr.cmd with
    | ok i =>
      rw [step_of_decode_ok hreq hd, step_of_decode_ok (s := withTable s T) hreq hd]
      exact exec_hidesTable T (stateInv_present h tr rest) hv i
    | error e =>
      exact ⟨_, _, step_of_decode_error hreq hd, step_of_decode_error hreq hd,
        hidesTable_performIllegal (s := s.present tr rest) hv⟩

/-- Settles O23: the two cores' steps are compared command by command. -/
theorem invalidTableIsNeverObservable : Obligations.InvalidTableIsNeverObservable := by
  intro s t T h hv hs
  obtain ⟨u, t', hu, hstep, hides⟩ := step_hidesTable T h hv
  obtain rfl := Host.Outcome.next.inj (hu.symm.trans hs)
  rcases hides with ⟨hinv, rfl⟩ | rfl
  · exact .inl ⟨hinv, hstep⟩
  · exact .inr hstep

/-! ## Reset -/

/-- Settles O1: the registers are 0 by definition, and the derived registers are evaluated at CTRL = 0. -/
theorem resetLeavesTheSpecifiedValues : Obligations.ResetLeavesTheSpecifiedValues := by
  have hderived : State.reset.readReg .mask = 0xFF ∧ State.reset.readReg .topbit = 0x80 ∧
      State.reset.readReg .bytes = 1 ∧ State.reset.readReg .bits = 8 := by decide
  exact ⟨rfl, rfl, rfl, rfl, rfl, rfl, rfl, rfl, rfl, rfl, hderived⟩

/-- Settles O3: by `stateInv_reset`. -/
theorem resetSatisfiesTheInvariants : Obligations.ResetSatisfiesTheInvariants := stateInv_reset

end Sys2Proof.Proofs

namespace Sys2Proof.Proofs

open Sys2Proof.Machine Sys2Proof.Laws

/-! ## One response to each command (20_memory.md R64) -/

/-- However a command ends, it has responded. -/
theorem resp_of_effect {i : Instr} {s t : State} (he : Effect s i t) : ∃ r, t.resp = some r := by
  cases he with
  | refused | raised | nop | value | written | bound | profiled => exact ⟨_, rfl⟩

/-- However a command ends, it has taken none of the host's later actions. -/
theorem requests_of_effect {i : Instr} {s t : State} (he : Effect s i t) : t.requests = s.requests := by
  cases he with
  | refused | raised | nop | value => rfl
  | written r reg w _ _ hw =>
    obtain ⟨g, rfl, -⟩ := writeReg_loadCfg hw
    rfl
  | bound | profiled => simp

/-- Settles O6: by the ways a step that performs a command ends. -/
theorem everyCommandGetsOneResponse : Obligations.EveryCommandGetsOneResponse := by
  intro s t rest hreq
  obtain ⟨s', hs⟩ := step_next s
  rcases step_effect hreq hs with ⟨i, -, he⟩ | ⟨e, -, ⟨-, rfl⟩ | ⟨-, rfl⟩⟩
  · obtain ⟨r, hr⟩ := resp_of_effect he
    exact ⟨s', r, hs, hr, requests_of_effect he⟩
  · exact ⟨_, .refused, hs, rfl, rfl⟩
  · exact ⟨_, .fault .illegalCmd, hs, rfl, rfl⟩

/-! ## No command sees a later one (20_memory.md R60) -/

/-- The same core with other actions of the host to come. -/
def withRequests (s : State) (later : List HostAction) : State := { s with requests := later }

section LaterActions

variable {s t t' : State} {later : List HostAction}

/-- A check whose condition reads none of the later actions. -/
theorem ite_withRequests {p : Prop} [Decidable p] {u u' : State} (ht : t' = withRequests t later)
    (hu : u' = withRequests u later) : (if p then t' else u') = withRequests (if p then t else u) later := by
  rw [ht, hu, apply_ite (withRequests · later)]

/-! The checks of R215 come out alike, and so does what they guard: `t'` on the core with the other later actions, where
it is `t` on `s`. -/

theorem unlessFaulted_withRequests (h : t' = withRequests t later) :
    unlessFaulted (withRequests s later) t' = withRequests (unlessFaulted s t) later :=
  ite_withRequests (p := s.faulted = true) (u := t) rfl h

theorem requireBound_withRequests (h : t' = withRequests t later) :
    requireBound (withRequests s later) t' = withRequests (requireBound s t) later :=
  ite_withRequests (p := s.bound = true) (t := t) h rfl

theorem requireTable_withRequests (h : t' = withRequests t later) :
    requireTable (withRequests s later) t' = withRequests (requireTable s t) later :=
  ite_withRequests (p := s.cfg.kind = 0) (u := t) rfl h

theorem requireOperandInRange_withRequests (h : t' = withRequests t later) :
    requireOperandInRange (withRequests s later) t' = withRequests (requireOperandInRange s t) later :=
  ite_withRequests (p := s.cfg.outOfRange s.opa = true) (u := t) rfl h

variable (s later)

theorem performIllegal_withRequests :
    performIllegal (withRequests s later) = withRequests (performIllegal s) later :=
  unlessFaulted_withRequests rfl

theorem construct_withRequests : (withRequests s later).construct = withRequests s.construct later := by
  rw [construct_eq, construct_eq]
  rfl

theorem readReg_withRequests (reg : Reg) : (withRequests s later).readReg reg = s.readReg reg := by
  cases reg <;> rfl

theorem writeReg_withRequests (reg : Reg) (v : Word) :
    (withRequests s later).writeReg reg v = (s.writeReg reg v).map (withRequests · later) := by
  cases reg <;> rfl

end LaterActions

/-- Every command, on two cores that differ in the host's later actions: each check, each value and each write comes out
alike, and the later actions stay. -/
theorem exec_withRequests (i : Instr) (s : State) (later : List HostAction) :
    ∃ t, exec i s = .next t ∧ exec i (withRequests s later) = .next (withRequests t later) := by
  have hopa : (withRequests s later).opa = s.opa := rfl
  cases i with
  | nop | rbits | rbytes => exact ⟨_, rfl, congrArg Host.Outcome.next (unlessFaulted_withRequests rfl)⟩
  | wrreg r =>
    refine ⟨_, rfl, congrArg Host.Outcome.next (unlessFaulted_withRequests ?_)⟩
    cases regAt r with
    | none => rfl
    | some reg =>
      simp only [Option.bind_some, writeReg_withRequests, hopa]
      cases s.writeReg reg s.opa with
      | none | some => rfl
  | rdreg r =>
    simp only [exec, execRdreg, readReg_withRequests]
    cases regAt r with
    | none => exact ⟨_, rfl, congrArg Host.Outcome.next (unlessFaulted_withRequests rfl)⟩
    | some reg => exact ⟨_, rfl, rfl⟩
  | bind =>
    exact ⟨_, rfl, congrArg Host.Outcome.next (unlessFaulted_withRequests (ite_withRequests rfl (ite_withRequests rfl
      (congrArg State.respondOk (construct_withRequests s later)))))⟩
  | profile k =>
    refine ⟨_, rfl, congrArg Host.Outcome.next (unlessFaulted_withRequests ?_)⟩
    cases profileRom[k.toNat]? with
    | none => rfl
    | some g => exact congrArg State.respondOk (construct_withRequests (s.loadCfg g) later)
  | calculate =>
    exact ⟨_, rfl, congrArg Host.Outcome.next (unlessFaulted_withRequests (requireBound_withRequests rfl))⟩
  | update p present b =>
    refine ⟨_, rfl, congrArg Host.Outcome.next (unlessFaulted_withRequests (requireBound_withRequests ?_))⟩
    cases present with
    | false => rfl
    | true => exact requireOperandInRange_withRequests rfl
  | step | final | unfinal =>
    exact ⟨_, rfl, congrArg Host.Outcome.next (unlessFaulted_withRequests (requireBound_withRequests
      (requireOperandInRange_withRequests rfl)))⟩
  | tread =>
    exact ⟨_, rfl, congrArg Host.Outcome.next (unlessFaulted_withRequests (requireBound_withRequests
      (requireTable_withRequests rfl)))⟩
  | reservedOpD | reservedOpE | reservedOpF =>
    exact ⟨_, rfl, congrArg Host.Outcome.next (performIllegal_withRequests s later)⟩

/-- Settles O7: the two steps perform one command on cores that differ in the later actions only. -/
theorem commandSeesNoLaterCommand : Obligations.CommandSeesNoLaterCommand := by
  intro s u t rest rest' hreq hs
  cases hd : decode t.cmd with
  | ok i =>
    obtain ⟨v, hv, hlater⟩ := exec_withRequests i (s.present t rest) rest'
    obtain rfl := Host.Outcome.next.inj (hv.symm.trans ((step_of_decode_ok hreq hd).symm.trans hs))
    exact (step_of_decode_ok rfl hd).trans hlater
  | error e =>
    obtain rfl := Host.Outcome.next.inj ((step_of_decode_error hreq hd).symm.trans hs)
    exact (step_of_decode_error rfl hd).trans
      (congrArg Host.Outcome.next (performIllegal_withRequests (s.present t rest) rest'))

/-! ## A step by the decoded command -/

/-- Settles O5: `State.present` and `State.idle` are the states that the statement writes out. -/
theorem stepPerformsTheDecodedCommand : Obligations.StepPerformsTheDecodedCommand :=
  ⟨fun _ _ _ _ hreq hd => step_of_decode_ok hreq hd, fun _ hreq => step_of_idle hreq⟩

end Sys2Proof.Proofs

namespace Sys2Proof.Proofs

open Sys2Proof.Machine Sys2Proof.Safety Sys2Proof.Laws

/-! ## The rows of the opcode map (30_encoding.md R74) -/

/-- The row's check (R74): the word AND the row's mask is the row's match. -/
abbrev FitsRow (w : CmdWord) (op : BitVec 4) : Prop := w &&& (opcodeRow op).mask = (opcodeRow op).pat

/-- A row's match is its OP above 28 zeros. -/
theorem opcodeRow_pat : ∀ op : BitVec 4, (opcodeRow op).pat = op ++ 0#28 := by decide

/-- Every row fixes the OP. -/
theorem opcodeRow_mask_op : ∀ op : BitVec 4, (opcodeRow op).mask.extractLsb' 28 4 = 0xF#4 := by decide

theorem opOf_of_fitsRow {w : CmdWord} {op : BitVec 4} (h : FitsRow w op) : opOf w = op :=
  (opOf_of_row (opcodeRow_mask_op op) h).trans (by rw [opcodeRow_pat]; exact EncodeOp.opOf_append op 0#28)

/-! ## The fields of a word (30_encoding.md R73) -/

/-- The operands of `i` are the fields of `w` at their places, with the id that PROFILE admits (R73, R77). -/
def FieldsAre (w : CmdWord) : Instr → Prop
  | .nop | .bind | .final | .unfinal => True
  | .wrreg r | .rdreg r => r = indexOf w
  | .profile k => k = indexOf w ∧ k.toNat ≤ 10
  | .calculate p => p = pathOf w
  | .update p v b => p = pathOf w ∧ v = presentOf w ∧ b = imm8Of w
  | .step p b => p = pathOf w ∧ b = imm8Of w
  | .rbits n => n = n6Of w
  | .rbytes n => n = n3Of w
  | .tread i => i = imm8Of w
  | .reservedOpD x | .reservedOpE x | .reservedOpF x => x = restOf w

theorem pathOf_eq_iff (w : CmdWord) (p : Path) : p = pathOf w ↔ (p = .table ↔ w.getLsbD 27 = true) := by
  unfold pathOf
  cases p with
  | bitwise | table => cases w.getLsbD 27 <;> simp

/-- PROFILE is the one row whose fields are checked again (R77). -/
theorem decodeFields_of_profile {w : CmdWord} (ho : opOf w = 0x4) :
    decodeFields w = if (indexOf w).toNat < Config.numProfiles then .ok (.profile (indexOf w))
      else .error (.profileId (indexOf w)) := by
  rw [decodeFields, ho]
  rfl

theorem decodeFields_profile_iff {w : CmdWord} {k : BitVec 4} (ho : opOf w = 0x4) :
    decodeFields w = .ok (.profile k) ↔ k = indexOf w ∧ k.toNat ≤ 10 := by
  rw [decodeFields_of_profile ho]
  split
  case isTrue hk =>
    rw [Except.ok.injEq, Instr.profile.injEq]
    exact ⟨fun h => ⟨h.symm, h ▸ Nat.le_of_lt_succ hk⟩, fun h => h.1.symm⟩
  case isFalse hk =>
    refine ⟨nofun, ?_⟩
    rintro ⟨rfl, h⟩
    exact absurd (Nat.lt_succ_of_le h) hk

theorem decodeFields_eq_ok_iff {w : CmdWord} {i : Instr} (ho : opOf w = opNumber i) :
    decodeFields w = .ok i ↔ FieldsAre w i := by
  cases i with
  | profile k => exact decodeFields_profile_iff ho
  | _ => simp [decodeFields, ho, opNumber, FieldsAre, eq_comm]

/-- What decodes to an instruction, said once (R74, R79). -/
theorem decode_eq_ok_iff {w : CmdWord} {i : Instr} :
    decode w = .ok i ↔ FitsRow w (opNumber i) ∧ FieldsAre w i := by
  constructor
  · intro h
    obtain ⟨hrow, hfields⟩ := decode_inv h
    have ho := opOf_of_decodeFields hfields
    exact ⟨ho ▸ hrow, (decodeFields_eq_ok_iff ho).mp hfields⟩
  · rintro ⟨hrow, hfields⟩
    have ho := opOf_of_fitsRow hrow
    exact (decode_of_row ho hrow).trans ((decodeFields_eq_ok_iff ho).mpr hfields)

/-! ## Decode of encode (30_encoding.md R72, R79) -/

/-- An OP above any other 28 bits fits a row that fixes the OP only. -/
theorem reserved_fitsRow {op : BitVec 4} (hm : (opcodeRow op).mask = 0xF#4 ++ 0#28) (x : BitVec 28) :
    FitsRow (op ++ x) op := by
  have hop : op &&& 0xF#4 = op := BitVec.and_allOnes
  rw [FitsRow, hm, opcodeRow_pat, BitVec.and_append, hop, BitVec.and_zero]

theorem encode_fitsRow (i : Instr) : FitsRow (encode i) (opNumber i) := by
  cases i with
  | nop | bind | final | unfinal => decide
  | wrreg x | rdreg x | profile x | rbits x | rbytes x | tread x => revert x; decide
  | calculate p => cases p <;> decide
  | update p v b => cases p <;> cases v <;> (revert b; decide)
  | step p b => cases p <;> (revert b; decide)
  | reservedOpD x => exact reserved_fitsRow (by decide) x
  | reservedOpE x => exact reserved_fitsRow (by decide) x
  | reservedOpF x => exact reserved_fitsRow (by decide) x

theorem restOf_append (op : BitVec 4) (x : BitVec 28) : restOf (op ++ x) = x :=
  BitVec.extractLsb'_append_eq_right

theorem fieldsAre_encode {i : Instr} (hi : i.wellFormed = true) : FieldsAre (encode i) i := by
  cases i with
  | nop | bind | final | unfinal => trivial
  | wrreg x | rdreg x | rbits x | rbytes x | tread x => revert x; unfold FieldsAre; decide
  | profile k => revert k; unfold FieldsAre; decide
  | calculate p => cases p <;> rfl
  | update p v b => cases p <;> cases v <;> (revert b; unfold FieldsAre; decide)
  | step p b => cases p <;> (revert b; unfold FieldsAre; decide)
  | reservedOpD x | reservedOpE x | reservedOpF x => exact (restOf_append _ x).symm

/-- Settles O8: the word fits its row, and the fields are where the decoder reads them. -/
theorem decodeOfEncode : Obligations.DecodeOfEncode :=
  fun i hi => decode_eq_ok_iff.mpr ⟨encode_fitsRow i, fieldsAre_encode hi⟩

/-! ## Encode of decode (30_encoding.md R76, R79) -/

/-- A word is known by its bits under a mask and by the others, the free ones. -/
theorem eq_of_masked_eq {w w' mask : CmdWord} (hmask : w &&& mask = w' &&& mask)
    (hfree : ∀ j : Fin 32, mask.getLsbD j = false → w.getLsbD j = w'.getLsbD j) : w = w' := by
  apply BitVec.eq_of_getLsbD_eq
  intro j hj
  by_cases hm : mask.getLsbD j = true
  · simpa [hm] using congrArg (·.getLsbD j) hmask
  · exact hfree ⟨j, hj⟩ (by simpa using hm)

theorem getLsbD_of_extract_eq {w w' : CmdWord} {start len : Nat}
    (h : w.extractLsb' start len = w'.extractLsb' start len) {j : Nat} (hj : start ≤ j ∧ j < start + len) : w.getLsbD j = w'.getLsbD j := by
  have hbit := congrArg (·.getLsbD (j - start)) h
  have hlen : j - start < len := by omega
  have hstart : start + (j - start) = j := by omega
  simpa [BitVec.getLsbD_extractLsb', hlen, hstart] using hbit

theorem getLsbD_27_of_pathOf_eq {w w' : CmdWord} (h : pathOf w = pathOf w') : w.getLsbD 27 = w'.getLsbD 27 := by
  have h' := (pathOf_eq_iff w' _).mp h
  rw [(pathOf_eq_iff w _).mp rfl] at h'
  exact Bool.eq_iff_iff.mpr h'

/-- A bit that a row with one field leaves free is in that field. -/
theorem free_bit_eq_of_field_eq {w w' mask : CmdWord} {start len : Nat}
    (hfree : ∀ j : Fin 32, mask.getLsbD j = false → start ≤ j.val ∧ j.val < start + len)
    (h : w.extractLsb' start len = w'.extractLsb' start len) {j : Fin 32} (hj : mask.getLsbD j = false) :
    w.getLsbD j = w'.getLsbD j :=
  getLsbD_of_extract_eq h (hfree j hj)

/-- The bits that a row leaves free are in the fields of its format (R72), so the same fields are the same bits. -/
theorem free_bit_eq_of_fieldsAre {w w' : CmdWord} {i : Instr} (h : FieldsAre w i) (h' : FieldsAre w' i) (j : Fin 32)
    (hj : (opcodeRow (opNumber i)).mask.getLsbD j = false) : w.getLsbD j = w'.getLsbD j := by
  cases i with
  | nop | bind | final | unfinal =>
    have hnone : ∀ j : Fin 32, (0xFFFFFFFF : CmdWord).getLsbD j = true := by decide
    exact absurd ((hnone j).symm.trans hj) (by decide)
  | wrreg | rdreg =>
    exact free_bit_eq_of_field_eq (mask := 0xFFFFF0FF) (start := 8) (len := 4) (by decide) (h.symm.trans h') hj
  | profile =>
    exact free_bit_eq_of_field_eq (mask := 0xFFFFF0FF) (start := 8) (len := 4) (by decide) (h.1.symm.trans h'.1) hj
  | rbits =>
    exact free_bit_eq_of_field_eq (mask := 0xFFFFC0FF) (start := 8) (len := 6) (by decide) (h.symm.trans h') hj
  | rbytes =>
    exact free_bit_eq_of_field_eq (mask := 0xFFFFF8FF) (start := 8) (len := 3) (by decide) (h.symm.trans h') hj
  | tread =>
    exact free_bit_eq_of_field_eq (mask := 0xFFFFFF00) (start := 0) (len := 8) (by decide) (h.symm.trans h') hj
  | reservedOpD | reservedOpE | reservedOpF =>
    exact free_bit_eq_of_field_eq (mask := 0xF0000000) (start := 0) (len := 28) (by decide) (h.symm.trans h') hj
  | calculate p =>
    have hfree : ∀ j : Fin 32, (0xF7FFFFFF : CmdWord).getLsbD j = false → j = 27 := by decide
    obtain rfl := hfree j hj
    exact getLsbD_27_of_pathOf_eq (h.symm.trans h')
  | update p v b =>
    have hfree : ∀ j : Fin 32, (0xF3FFFF00 : CmdWord).getLsbD j = false →
        j = 27 ∨ j = 26 ∨ 0 ≤ j.val ∧ j.val < 0 + 8 := by decide
    obtain ⟨hpath, hpresent, hbyte⟩ := h
    obtain ⟨hpath', hpresent', hbyte'⟩ := h'
    rcases hfree j hj with rfl | rfl | hlow
    · exact getLsbD_27_of_pathOf_eq (hpath.symm.trans hpath')
    · exact hpresent.symm.trans hpresent'
    · exact getLsbD_of_extract_eq (hbyte.symm.trans hbyte') hlow
  | step p b =>
    have hfree : ∀ j : Fin 32, (0xF7FFFF00 : CmdWord).getLsbD j = false →
        j = 27 ∨ 0 ≤ j.val ∧ j.val < 0 + 8 := by decide
    obtain ⟨hpath, hbyte⟩ := h
    obtain ⟨hpath', hbyte'⟩ := h'
    rcases hfree j hj with rfl | hlow
    · exact getLsbD_27_of_pathOf_eq (hpath.symm.trans hpath')
    · exact getLsbD_of_extract_eq (hbyte.symm.trans hbyte') hlow

/-- No two words decode to one instruction. -/
theorem decode_injective {w w' : CmdWord} {i : Instr} (h : decode w = .ok i) (h' : decode w' = .ok i) : w = w' := by
  obtain ⟨hrow, hfields⟩ := decode_eq_ok_iff.mp h
  obtain ⟨hrow', hfields'⟩ := decode_eq_ok_iff.mp h'
  exact eq_of_masked_eq (hrow.trans hrow'.symm) (free_bit_eq_of_fieldsAre hfields hfields')

theorem wellFormed_of_fieldsAre {w : CmdWord} {i : Instr} (h : FieldsAre w i) : i.wellFormed = true := by
  cases i with
  | profile k => exact decide_eq_true (Nat.lt_succ_of_le h.2)
  | _ => rfl

/-- Settles O9: the instruction is well-formed, so its own word decodes to it too, and no two words do. -/
theorem encodeOfDecode : Obligations.EncodeOfDecode := by
  intro w i h
  have hi := wellFormed_of_fieldsAre (decode_eq_ok_iff.mp h).2
  exact ⟨hi, decode_injective (decodeOfEncode i hi) h⟩

/-! ## The opcode map -/

/-- Settles O10: each clause is `decode_eq_ok_iff` at its command. -/
theorem opcodeMapDecodesEveryRow : Obligations.OpcodeMapDecodesEveryRow := by
  have noField {w : CmdWord} {i : Instr} (hi : FieldsAre w i) : decode w = .ok i ↔ FitsRow w (opNumber i) :=
    decode_eq_ok_iff.trans (and_iff_left hi)
  intro w
  refine ⟨noField trivial, fun r => decode_eq_ok_iff, fun r => decode_eq_ok_iff, noField trivial,
    fun k => decode_eq_ok_iff, fun p => ?_, fun p v b => ?_, fun p b => ?_, noField trivial, noField trivial,
    fun n => decode_eq_ok_iff, fun n => decode_eq_ok_iff, fun i => decode_eq_ok_iff,
    fun x => decode_eq_ok_iff, fun x => decode_eq_ok_iff, fun x => decode_eq_ok_iff⟩
  all_goals
    rw [← pathOf_eq_iff]
    exact decode_eq_ok_iff

/-! ## Illegal words (30_encoding.md R76, R77, R79) -/

/-- The match of a word's own row, bit by bit: the word's OP, above zeros. -/
theorem opcodeRow_opOf_pat_getLsbD (w : CmdWord) {j : Nat} (hj : j < 32) :
    (opcodeRow (opOf w)).pat.getLsbD j = (decide (28 ≤ j) && w.getLsbD j) := by
  rw [opcodeRow_pat, BitVec.getLsbD_append]
  by_cases h : j < 28
  · simp [h]
  · have hplace : 28 + (j - 28) = j := by omega
    have hlen : j - 28 < 4 := by omega
    have h28 : 28 ≤ j := by omega
    simp [opOf, h, h28, hplace, hlen]

/-- Every mask covers the OP's bits. -/
theorem opcodeRow_mask_getLsbD_op :
    ∀ (op : BitVec 4) (j : Fin 32), 28 ≤ j.val → (opcodeRow op).mask.getLsbD j = true := by decide

/-- A word fails its row's check where it has a 1 that the mask covers and the match does not have (R76). -/
theorem not_fitsRow_iff (w : CmdWord) : ¬ FitsRow w (opOf w) ↔
    ∃ j, (opcodeRow (opOf w)).mask.getLsbD j = true ∧ (opcodeRow (opOf w)).pat.getLsbD j = false ∧
      w.getLsbD j = true := by
  constructor
  · intro h
    by_contra hno
    refine h (BitVec.eq_of_getLsbD_eq fun j hj => ?_)
    have hpat := opcodeRow_opOf_pat_getLsbD w hj
    rw [BitVec.getLsbD_and, hpat]
    by_cases h28 : 28 ≤ j
    · simp [h28, opcodeRow_mask_getLsbD_op (opOf w) ⟨j, hj⟩ h28]
    · rw [decide_eq_false h28, Bool.false_and] at hpat ⊢
      by_contra hbit
      rw [Bool.not_eq_false, Bool.and_eq_true] at hbit
      exact hno ⟨j, hbit.2, hpat, hbit.1⟩
  · rintro ⟨j, hmask, hpat, hw⟩ h
    rw [← show _ = _ from h, BitVec.getLsbD_and, hmask, hw] at hpat
    cases hpat

theorem decodeFields_error_iff (w : CmdWord) :
    (∃ e, decodeFields w = .error e) ↔ opOf w = 0x4 ∧ 10 < (indexOf w).toNat := by
  constructor
  · rintro ⟨e, he⟩
    unfold decodeFields at he
    split at he
    case h_5 ho =>
      split at he
      case isTrue => cases he
      case isFalse hk => exact ⟨ho, Nat.lt_of_succ_le (Nat.not_lt.mp hk)⟩
    all_goals cases he
  · rintro ⟨ho, hk⟩
    exact ⟨_, (decodeFields_of_profile ho).trans (if_neg (Nat.not_lt.mpr hk))⟩

/-- The illegal words, said once. -/
theorem decode_error_iff (w : CmdWord) : (∃ e, decode w = .error e) ↔
    ¬ FitsRow w (opOf w) ∨ opOf w = 0x4 ∧ 10 < (indexOf w).toNat := by
  rw [← decodeFields_error_iff]
  by_cases h : FitsRow w (opOf w)
  · rw [decode_of_row rfl h]
    simp [h]
  · exact ⟨fun _ => .inl h, fun _ => ⟨_, if_neg h⟩⟩

theorem isReserved_of_opNumber_le {i : Instr} (h : (opNumber i).toNat ≤ 0xC) : isReserved i = false := by
  cases i with
  | reservedOpD | reservedOpE | reservedOpF => simp [opNumber] at h
  | _ => rfl

/-- An illegal word presented (R79, last sentence): its fault, or REFUSED. -/
theorem illegal_word_response {t : Transaction} {e : DecodeError} (hd : decode t.cmd = .error e) (s : State) :
    ∃ s', send s t = .next s' ∧
      (s.faulted = false → s'.resp = some (.fault .illegalCmd) ∧ s'.faulted = true ∧ s'.errcode = 5) ∧
      (s.faulted = true → s'.resp = some .refused ∧ s'.status = s.status) := by
  obtain ⟨u, hsend, hstatus⟩ : ∃ u : State, send s t = .next (performIllegal u) ∧ u.status = s.status :=
    ⟨_, step_of_decode_error rfl hd, rfl⟩
  refine ⟨_, hsend, ?_⟩
  rw [State.faulted, ← hstatus]
  rcases performIllegal_cases u with ⟨hf, hp⟩ | ⟨hf, hp⟩ <;> rw [hp]
  · exact ⟨fun hready => absurd (hf.symm.trans hready) (by decide), fun _ => ⟨rfl, rfl⟩⟩
  · exact ⟨fun _ => ⟨rfl, u.raise_faulted _, u.raise_errcode _⟩,
      fun hfaulted => absurd (hf.symm.trans hfaulted) (by decide)⟩

/-- Settles O12: the illegal words are those that do not decode. -/
theorem illegalWordsRaiseIllegalCommand : Obligations.IllegalWordsRaiseIllegalCommand := by
  intro t hop illegal
  have hillegal : (∃ e, decode t.cmd = .error e) ↔ illegal := by
    rw [decode_error_iff, not_fitsRow_iff]
  refine ⟨fun h => ?_, fun h => ?_⟩
  · obtain ⟨e, he⟩ := hillegal.mpr h
    exact illegal_word_response he
  · cases hd : decode t.cmd with
    | error e => exact absurd (hillegal.mp ⟨e, hd⟩) h
    | ok i =>
      have ho := opOf_of_fitsRow (decode_eq_ok_iff.mp hd).1
      exact ⟨i, rfl, isReserved_of_opNumber_le (ho ▸ hop)⟩

/-! ## Reserved OPs (30_encoding.md R75) and sample words (R72) -/

/-- Settles O13: the words are those of the three reserved instructions, which are illegal commands when performed. -/
theorem reservedOpcodesRaiseIllegalCommand : Obligations.ReservedOpcodesRaiseIllegalCommand := by
  intro s x hready
  have hillegal : performIllegal s = s.raise .illegalCmd := unlessFaulted_of_ready _ hready
  exact ⟨congrArg _ hillegal, congrArg _ hillegal, congrArg _ hillegal, decodeOfEncode (.reservedOpD x) rfl,
    decodeOfEncode (.reservedOpE x) rfl, decodeOfEncode (.reservedOpF x) rfl⟩

/-- Settles O11: each word evaluated. -/
theorem sampleWordsDecode : Obligations.SampleWordsDecode := by
  unfold Obligations.SampleWordsDecode
  decide

end Sys2Proof.Proofs

namespace Sys2Proof.Proofs

open Sys2Proof.Machine Sys2Proof.Safety Sys2Proof.Laws

/-! ## Ports that a command does not read (30_encoding.md R80, R81) -/

/-- The same core with other values on the ports OPA and MSG: `f` and `m` of the values there. -/
def mapPorts (f : Word → Word) (m : List Byte → List Byte) (s : State) : State :=
  { s with opa := f s.opa, msg := m s.msg }

section MapPorts

variable (f : Word → Word) (m : List Byte → List Byte) (s t : State)

@[simp] theorem mapPorts_opa : (mapPorts f m s).opa = f s.opa := rfl
@[simp] theorem mapPorts_msg : (mapPorts f m s).msg = m s.msg := rfl
@[simp] theorem mapPorts_cfg : (mapPorts f m s).cfg = s.cfg := rfl
@[simp] theorem mapPorts_table : (mapPorts f m s).table = s.table := rfl

/-! Every operation that reads neither port commutes with the change. -/

@[simp] theorem respondOk_mapPorts : (mapPorts f m s).respondOk = mapPorts f m s.respondOk := rfl

@[simp] theorem respondValue_mapPorts (v : Word) :
    (mapPorts f m s).respondValue v = mapPorts f m (s.respondValue v) := rfl

@[simp] theorem raise_mapPorts (c : FaultCode) : (mapPorts f m s).raise c = mapPorts f m (s.raise c) := rfl

@[simp] theorem setBinding_mapPorts (b b' : Bool) :
    (mapPorts f m s).setBinding b b' = mapPorts f m (s.setBinding b b') := rfl

@[simp] theorem loadCfg_mapPorts (g : Cfg) : (mapPorts f m s).loadCfg g = mapPorts f m (s.loadCfg g) := rfl

@[simp] theorem construct_mapPorts : (mapPorts f m s).construct = mapPorts f m s.construct := by
  rw [construct_eq, construct_eq]
  rfl

@[simp] theorem readReg_mapPorts (reg : Reg) : (mapPorts f m s).readReg reg = s.readReg reg := by
  cases reg <;> rfl

@[simp] theorem writeReg_mapPorts (reg : Reg) (v : Word) :
    (mapPorts f m s).writeReg reg v = (s.writeReg reg v).map (mapPorts f m) := by
  cases reg <;> rfl

@[simp] theorem unlessFaulted_mapPorts :
    unlessFaulted (mapPorts f m s) (mapPorts f m t) = mapPorts f m (unlessFaulted s t) :=
  (apply_ite (mapPorts f m) (s.faulted = true) s.refuse t).symm

@[simp] theorem requireBound_mapPorts :
    requireBound (mapPorts f m s) (mapPorts f m t) = mapPorts f m (requireBound s t) :=
  (apply_ite (mapPorts f m) (s.bound = true) t (s.raise .notBound)).symm

@[simp] theorem requireTable_mapPorts :
    requireTable (mapPorts f m s) (mapPorts f m t) = mapPorts f m (requireTable s t) :=
  (apply_ite (mapPorts f m) (s.cfg.kind = 0) (s.raise .noTable) t).symm

@[simp] theorem performIllegal_mapPorts : performIllegal (mapPorts f m s) = mapPorts f m (performIllegal s) :=
  unlessFaulted_mapPorts f m s (s.raise .illegalCmd)

variable {f m s t}

/-- The range check reads OPA, which must hold the same value. -/
theorem requireOperandInRange_mapPorts (hopa : f s.opa = s.opa) :
    requireOperandInRange (mapPorts f m s) (mapPorts f m t) = mapPorts f m (requireOperandInRange s t) := by
  rw [requireOperandInRange, mapPorts_opa, hopa]
  exact (apply_ite (mapPorts f m) (s.cfg.outOfRange s.opa = true) (s.raise .operandRange) t).symm

/-- Without a prior, UPDATE's value does not depend on OPA (45_facade.md R192). -/
theorem updateValue_absent (g : Cfg) (T : Table) (p : Path) (a a' : Word) (b : Byte) :
    updateValue g T p false a b = updateValue g T p false a' b := rfl

/-- Every command, on two cores that differ in the ports it does not read: each check and each value comes out alike,
and the ports stay. -/
theorem exec_mapPorts (i : Instr) (hopa : readsOpa i = true → f s.opa = s.opa)
    (hmsg : readsMsg i = true → m s.msg = s.msg) (h : exec i s = .next t) :
    exec i (mapPorts f m s) = .next (mapPorts f m t) := by
  cases i with
  | nop => cases h; simp [exec, execNop]
  | wrreg r =>
    cases h
    simp only [exec, execWrreg, mapPorts_opa, hopa rfl, writeReg_mapPorts]
    cases regAt r with
    | none => simp
    | some reg => cases hw : s.writeReg reg s.opa <;> simp [hw]
  | rdreg r =>
    simp only [exec, execRdreg] at h ⊢
    split at h <;> (cases h; simp)
  | bind =>
    cases h
    refine congrArg Host.Outcome.next (Eq.trans ?_ (unlessFaulted_mapPorts f m s _))
    simp [apply_ite (mapPorts f m)]
  | profile k =>
    cases h
    simp only [exec, execProfile]
    cases profileRom[k.toNat]? <;> simp
  | calculate p => cases h; simp [exec, execCalculate, hmsg rfl]
  | update p present b =>
    cases h
    cases present with
    | false => simp [exec, execUpdate, updateValue_absent _ _ _ (f s.opa) s.opa]
    | true => simp [exec, execUpdate, hopa rfl, requireOperandInRange_mapPorts]
  | step p b => cases h; simp [exec, execStep, hopa rfl, requireOperandInRange_mapPorts]
  | final => cases h; simp [exec, execFinal, hopa rfl, requireOperandInRange_mapPorts]
  | unfinal => cases h; simp [exec, execUnfinal, hopa rfl, requireOperandInRange_mapPorts]
  | rbits n => cases h; simp [exec, execRbits, hopa rfl]
  | rbytes n => cases h; simp [exec, execRbytes, hopa rfl]
  | tread x => cases h; simp [exec, execTread]
  | reservedOpD | reservedOpE | reservedOpF =>
    cases h
    simp [exec, execReservedOpD, execReservedOpE, execReservedOpF]

end MapPorts

/-- Settles O22: the port's own value replaced, and the other port kept. -/
theorem unreadPortsHaveNoEffect : Obligations.UnreadPortsHaveNoEffect := by
  refine ⟨fun i s t x hi h => ?_, fun i s t M hi h => ?_⟩
  · exact exec_mapPorts (f := fun _ => x) (m := id) i (fun hr => absurd hr (by simp [hi])) (fun _ => rfl) h
  · exact exec_mapPorts (f := id) (m := fun _ => M) i (fun _ => rfl) (fun hr => absurd hr (by simp [hi])) h

end Sys2Proof.Proofs

namespace Sys2Proof.Proofs

open Sys2Proof.Machine

/-! ## Pseudo-instructions (30_encoding.md R83) -/

theorem widthAccepted_iff (bits : Nat) :
    widthAccepted bits = true ↔ ∃ bytes, 1 ≤ bytes ∧ bytes ≤ 8 ∧ bits = 8 * bytes := by
  simp only [widthAccepted, Bool.and_eq_true, beq_iff_eq, decide_eq_true_eq]
  constructor
  · rintro ⟨⟨hmod, hlow⟩, hhigh⟩
    exact ⟨bits / 8, by omega, by omega, by omega⟩
  · rintro ⟨bytes, hlow, hhigh, rfl⟩
    omega

/-- CTRL of SETSUM: WBYTES in bits 10:8. -/
theorem setsum_ctrl (wbytes : Nat) : BitVec.ofNat 64 wbytes <<< 8 = BitVec.ofNat 64 (256 * wbytes) := by
  apply BitVec.eq_of_toNat_eq
  simp [Nat.shiftLeft_eq, Nat.mul_comm]

/-- CTRL of SETCRC: KIND = 1 and the three flags below WBYTES, no two of them in one bit. -/
theorem setcrc_ctrl : ∀ wbytes < 8, ∀ refin refout refoutb : Bool,
    (BitVec.ofNat 64 wbytes <<< 8) ||| ((BitVec.ofBool refoutb).setWidth 64 <<< 4) |||
        ((BitVec.ofBool refout).setWidth 64 <<< 3) ||| ((BitVec.ofBool refin).setWidth 64 <<< 2) ||| 1#64 =
      BitVec.ofNat 64 (256 * wbytes + 16 * refoutb.toNat + 8 * refout.toNat + 4 * refin.toNat + 1) := by
  decide

/-- Settles O31: the widths accepted are the eight, and the two forms of CTRL are equal at each. -/
theorem pseudoInstructionsExpand : Obligations.PseudoInstructionsExpand := by
  refine ⟨by decide, fun bytes hlow hhigh => ?_, fun bits hbits => ?_⟩
  · have hwidth : widthAccepted (8 * bytes) = true := (widthAccepted_iff _).mpr ⟨bytes, hlow, hhigh, rfl⟩
    have hbytes : 8 * bytes / 8 = bytes := by omega
    refine ⟨?_, fun poly init xorout refin refout refoutb => ?_⟩
    · rw [expandSetsum, if_pos hwidth, hbytes, setsum_ctrl]
      rfl
    · rw [← setcrc_ctrl (bytes - 1) (by omega), expandSetcrc, if_pos hwidth, hbytes]
      rfl
  · have hwidth : ¬ widthAccepted bits = true := by
      rw [widthAccepted_iff]
      rintro ⟨bytes, hlow, hhigh, heq⟩
      exact hbits bytes hlow hhigh heq
    exact ⟨if_neg hwidth, fun _ _ _ _ _ _ => if_neg hwidth⟩

end Sys2Proof.Proofs

namespace Sys2Proof.Proofs

open Sys2Proof.Machine Sys2Proof.Safety Sys2Proof.Laws

/-! ## NOP, WRREG and RDREG (40_config.md R101 to R103) -/

section RegisterCommands

variable {s : State} {r : BitVec 4} {reg : Reg}

theorem setBinding_unbound (s : State) : s.setBinding false false = { s with status := s.status &&& ~~~3#64 } := by
  rw [State.setBinding, statusBinding_unbound]

/-- The Config with one register written, as `State.writeReg` writes it (`writeReg_eq_map`). -/
def cfgWritten (g : Cfg) (reg : Reg) (v : Word) : Option Cfg :=
  match reg with
  | .ctrl => some { g with ctrl := v &&& ctrlWritable }
  | .poly => some { g with poly := v }
  | .init => some { g with init := v }
  | .xorout => some { g with xorout := v }
  | .status | .mask | .topbit | .bytes | .bits => none

theorem writeReg_eq_map (s : State) (reg : Reg) (v : Word) :
    s.writeReg reg v = (cfgWritten s.cfg reg v).map s.loadCfg := by
  cases reg <;> rfl

theorem exec_wrreg_of_written {g : Cfg} (hready : s.faulted = false) (hreg : regAt r = some reg)
    (hw : cfgWritten s.cfg reg s.opa = some g) :
    exec (.wrreg r) s = .next ((s.loadCfg g).setBinding false false).respondOk := by
  simp only [exec, execWrreg, unlessFaulted_of_ready _ hready, hreg, Option.bind_some, writeReg_eq_map, hw,
    Option.map_some]

/-- The registers of the indices 4..8 are read-only (20_memory.md R51). -/
theorem writeReg_eq_none_of_index (hr : 3 < r.toNat) (hreg : regAt r = some reg) (v : Word) :
    s.writeReg reg v = none := by
  obtain ⟨hctrl, hpoly, hinit, hxorout⟩ := regAt_config_iff r
  cases hw : s.writeReg reg v with
  | none => rfl
  | some w =>
    have hconfig : r = 0 ∨ r = 1 ∨ r = 2 ∨ r = 3 := by
      rw [← hctrl, ← hpoly, ← hinit, ← hxorout, hreg]
      rcases writeReg_cases hw with ⟨rfl, -⟩ | ⟨rfl, -⟩ | ⟨rfl, -⟩ | ⟨rfl, -⟩ <;> simp
    rcases hconfig with rfl | rfl | rfl | rfl <;> simp at hr

theorem exec_wrreg_of_bad_index (hready : s.faulted = false) (hr : 3 < r.toNat) :
    exec (.wrreg r) s = .next (s.raise .badReg) := by
  have hnone : ((regAt r).bind fun reg => s.writeReg reg s.opa) = none :=
    Option.bind_eq_none_iff.mpr fun reg hreg => writeReg_eq_none_of_index hr hreg s.opa
  simp only [exec, execWrreg, unlessFaulted_of_ready _ hready, hnone]

/-- The registers by index (20_memory.md R51). -/
def indexedRegs : List Reg := [.ctrl, .poly, .init, .xorout, .status, .mask, .topbit, .bytes, .bits]

theorem regAt_eq_getElem? : ∀ r : BitVec 4, regAt r = indexedRegs[r.toNat]? := by decide

/-- RDREG is performed in the faulted state too (60_exceptions.md R214). -/
theorem exec_rdreg_of_index (hreg : regAt r = some reg) :
    exec (.rdreg r) s = .next (s.respondValue (s.readReg reg)) := by
  simp only [exec, execRdreg, hreg]

theorem exec_rdreg_of_bad_index (hready : s.faulted = false) (hr : 8 < r.toNat) :
    exec (.rdreg r) s = .next (s.raise .badReg) := by
  have hnone : regAt r = none := by
    rw [← Option.not_isSome_iff_eq_none, regAt_isSome, decide_eq_true_eq]
    omega
  simp only [exec, execRdreg, hnone, unlessFaulted_of_ready _ hready]

/-- An index into the registers' values is RDREG's answer. -/
theorem exec_rdreg_of_value {v : Word} (h : (indexedRegs.map s.readReg)[r.toNat]? = some v) :
    exec (.rdreg r) s = .next (s.respondValue v) := by
  rw [List.getElem?_map, ← regAt_eq_getElem?, Option.map_eq_some_iff] at h
  obtain ⟨reg, hreg, rfl⟩ := h
  exact exec_rdreg_of_index hreg

/-- The registers' values, the derived ones by the formulas of R12. -/
theorem indexedRegs_map_readReg (s : State) :
    let bytes := s.ctrl.toNat / 256 % 8 + 1
    let bits := 8 * bytes
    indexedRegs.map s.readReg = [s.ctrl, s.poly, s.init, s.xorout, s.status, BitVec.ofNat 64 (2 ^ bits - 1),
      BitVec.ofNat 64 (2 ^ (bits - 1)), BitVec.ofNat 64 bytes, BitVec.ofNat 64 bits] := by
  intro bytes bits
  have hbytes : s.cfg.bytes = bytes := s.cfg.bytes_eq
  simp only [indexedRegs, List.map_cons, List.map_nil, State.readReg, Cfg.mask, Cfg.topbit, Cfg.bits, hbytes, bits]

end RegisterCommands

/-- Settles O24: by the check for the faulted state, NOP's only one. -/
theorem nopHasNoEffect : Obligations.NopHasNoEffect :=
  ⟨decodeOfEncode .nop rfl, fun _ =>
    ⟨fun hready => congrArg _ (unlessFaulted_of_ready _ hready),
      fun hfaulted => congrArg _ (unlessFaulted_of_faulted _ hfaulted)⟩⟩

/-- Settles O25: one write for each of the four registers, and no write for the other indices. -/
theorem wrregStoresAndUnbinds : Obligations.WrregStoresAndUnbinds := by
  refine ⟨fun w r => decode_eq_ok_iff, fun s hready => ?_⟩
  have stores {r : BitVec 4} {reg : Reg} (g : Cfg) (hreg : regAt r = some reg)
      (hw : cfgWritten s.cfg reg s.opa = some g) :
      exec (.wrreg r) s = .next { s.loadCfg g with status := s.status &&& ~~~3#64, resp := some (.ok none) } := by
    rw [exec_wrreg_of_written hready hreg hw, setBinding_unbound]
    rfl
  exact ⟨stores { s.cfg with ctrl := s.opa &&& ctrlWritable } rfl rfl, stores { s.cfg with poly := s.opa } rfl rfl,
    stores { s.cfg with init := s.opa } rfl rfl, stores { s.cfg with xorout := s.opa } rfl rfl,
    fun r hr => exec_wrreg_of_bad_index hready hr⟩

/-- Settles O26: the list of the statement is the registers' values by index. -/
theorem rdregReturnsTheIndexedRegister : Obligations.RdregReturnsTheIndexedRegister := by
  refine ⟨fun w r => decode_eq_ok_iff, fun s => ⟨fun r v h => ?_, fun r hr hready => ?_⟩⟩
  · rw [← indexedRegs_map_readReg] at h
    exact exec_rdreg_of_value h
  · exact exec_rdreg_of_bad_index hready hr

end Sys2Proof.Proofs

namespace Sys2Proof.Proofs

open Sys2Proof.Machine Sys2Proof.Safety Sys2Proof.Laws

/-! ## The construction, written out (40_config.md R106, R108) -/

theorem kind_eq_iff (g : Cfg) (k : BitVec 2) : g.kind = k ↔ g.ctrl.toNat % 4 = k.toNat := by
  rw [← g.kind_toNat, BitVec.toNat_inj]

theorem construct_status_eq (s : State) : s.construct.status =
    if s.ctrl.toNat % 4 = 1 then s.status ||| 3 else (s.status ||| 1) &&& ~~~2#64 := by
  have hkind : s.cfg.kind = 1 ↔ s.ctrl.toNat % 4 = 1 := kind_eq_iff s.cfg 1
  rw [construct_status]
  split
  case isTrue h => rw [decide_eq_true (hkind.mpr h), statusBinding_crc]
  case isFalse h => rw [decide_eq_false (mt hkind.mp h), statusBinding_checksum]

/-- The construction writes STATUS and TABLE only. -/
theorem construct_frame (s : State) :
    s.construct = { s with status := s.construct.status, table := s.construct.table } := by
  rw [construct_eq]
  rfl

/-- The table that the construction leaves, entry by entry. -/
theorem construct_table_entries (s : State) :
    if s.ctrl.toNat % 4 = 1 then ∀ d, tableEntryAt s.construct.table d = tableEntry s.cfg d
      else s.construct.table = s.table := by
  have hkind : s.cfg.kind = 1 ↔ s.ctrl.toNat % 4 = 1 := kind_eq_iff s.cfg 1
  rw [construct_table]
  split
  case isTrue h => rw [if_pos (hkind.mpr h)]; exact buildTable_get _
  case isFalse h => rw [if_neg (mt hkind.mp h)]

/-- The flags written with the values they hold. -/
theorem setBinding_self (s : State) : s.setBinding s.bound s.tableValid = s := by
  have hstatus : statusBinding s.status s.bound s.tableValid = s.status := by
    apply BitVec.eq_of_getLsbD_eq
    intro j _
    rw [statusBinding_getLsbD]
    split_ifs with h1 h0
    · rw [h1, State.tableValid]
    · rw [h0, State.bound]
    · rfl
  rw [State.setBinding, hstatus]

/-- A bound core has nothing left to construct: its flags and, for a Crc Config, its table are current (10_state.md R29,
R40). -/
theorem construct_of_bound {s : State} (h : StateInv s) (hb : s.bound = true) : s.construct = s := by
  have hvalid : s.tableValid = decide (s.cfg.kind = 1) := by
    rw [Bool.eq_iff_iff, h.tableValid_iff, decide_eq_true_eq]
    exact and_iff_right hb
  have htable : (if s.cfg.kind = 1 then buildTable s.cfg else s.table) = s.table := by
    split
    case isTrue hk =>
      exact table_ext fun d => by rw [buildTable_get, h.table_current (h.tableValid_iff.mpr ⟨hb, hk⟩)]
    case isFalse => rfl
  rw [construct_eq, htable, ← hvalid, ← hb, setBinding_self]
  rfl

/-! ## BIND (40_config.md R105, R106) -/

section Bind

variable {s : State} (hready : s.faulted = false)

include hready

theorem exec_bind_of_unsupported (hk : 2 ≤ s.cfg.kind) : exec .bind s = .next (s.raise .variant) := by
  simp only [exec, execBind, unlessFaulted_of_ready _ hready, if_pos hk]

theorem exec_bind_of_bad_range (hk : s.cfg.kind = 1) (hr : s.cfg.rangesOk = false) :
    exec .bind s = .next (s.raise .cfgRange) := by
  have hvariant : ¬ s.cfg.kind ≥ 2 := by rw [hk]; decide
  simp only [exec, execBind, unlessFaulted_of_ready _ hready, if_neg hvariant, if_pos (And.intro hk hr)]

theorem exec_bind_of_valid (hk : s.cfg.kind < 2) (hr : s.cfg.kind = 1 → s.cfg.rangesOk = true) :
    exec .bind s = .next s.construct.respondOk := by
  have hranges : ¬ (s.cfg.kind = 1 ∧ s.cfg.rangesOk = false) := fun ⟨h1, h2⟩ => absurd (hr h1) (by simp [h2])
  simp only [exec, execBind, unlessFaulted_of_ready _ hready, if_neg (BitVec.not_le.mpr hk), if_neg hranges]

end Bind

/-- An OP that leaves no other bit free is one word. -/
theorem decode_bind_iff (w : CmdWord) : decode w = .ok .bind ↔ w = 0x30000000 := by
  have hrow : decode w = .ok .bind ↔ w &&& BitVec.allOnes 32 = 0x30000000 :=
    decode_eq_ok_iff.trans (and_iff_left trivial)
  rw [hrow, BitVec.and_allOnes]

/-- Settles O27: BIND's two checks, then the construction, which leaves a bound core as it was. -/
theorem bindValidatesAndConstructs : Obligations.BindValidatesAndConstructs := by
  refine ⟨decode_bind_iff, fun s hready => ?_⟩
  intro kind inRange
  have hkind (k : BitVec 2) : s.cfg.kind = k ↔ kind = k.toNat := kind_eq_iff s.cfg k
  have hranges : s.cfg.rangesOk = true ↔ inRange := rangesOk_iff s.cfg
  have written (hk : s.cfg.kind < 2) (hr : s.cfg.kind = 1 → s.cfg.rangesOk = true) : exec .bind s = .next { s with
      status := if kind = 1 then s.status ||| 3 else (s.status ||| 1) &&& ~~~2#64, table := s.construct.table,
      resp := some (.ok none) } := by
    rw [exec_bind_of_valid hready hk hr, construct_frame, construct_status_eq]
    rfl
  refine ⟨fun h2 => ?_, fun h1 hbad => ?_, fun h0 => ?_, fun h1 hgood => ?_, fun hinv hb => ?_⟩
  · refine exec_bind_of_unsupported hready (BitVec.le_def.mpr ?_)
    rw [s.cfg.kind_toNat]
    exact h2
  · exact exec_bind_of_bad_range hready ((hkind 1).mpr h1) (Bool.eq_false_iff.mpr (mt hranges.mp hbad))
  · have hk : s.cfg.kind = 0 := (hkind 0).mpr h0
    have hne : kind ≠ 1 := by omega
    rw [written (hk ▸ by decide) fun h => absurd (hk.symm.trans h) (by decide), if_neg hne, construct_table, hk]
    rfl
  · have hk : s.cfg.kind = 1 := (hkind 1).mpr h1
    have hentries := construct_table_entries s
    rw [if_pos h1] at hentries
    refine ⟨s.construct.table, hentries, ?_⟩
    rw [written (hk ▸ by decide) fun _ => hranges.mpr hgood, if_pos h1]
  · have hk : s.cfg.kind < 2 := by rcases hinv.bound_kind hb with h | h <;> rw [h] <;> decide
    have hr (h1 : s.cfg.kind = 1) : s.cfg.rangesOk = true := (rangesOk_iff s.cfg).mpr (hinv.bound_ranges hb h1)
    rw [exec_bind_of_valid hready hk hr, construct_of_bound hinv hb]
    rfl

end Sys2Proof.Proofs

namespace Sys2Proof.Proofs

open Sys2Proof.Machine Sys2Proof.Laws

/-! ## A Config written register by register, then bound (40_config.md R108) -/

/-- A CTRL whose reserved bits are clear is what WRREG stores (10_state.md R24). -/
theorem and_ctrlWritable_of_reserved {v : Word} (h : v &&& ~~~ctrlWritable = 0) : v &&& ctrlWritable = v := by
  apply BitVec.eq_of_getLsbD_eq
  intro j hj
  have hbit : (v &&& ~~~ctrlWritable).getLsbD j = (0 : Word).getLsbD j := by rw [h]
  rw [BitVec.getLsbD_and, BitVec.getLsbD_not, decide_eq_true hj] at hbit
  rw [BitVec.getLsbD_and]
  cases hv : v.getLsbD j with
  | false => rfl
  | true => simpa [hv] using hbit

/-- WRREG of each configuration register, then BIND. -/
def configureCommands (g : Cfg) : List HostAction :=
  [.command (transact (.wrreg 0) g.ctrl), .command (transact (.wrreg 1) g.poly),
    .command (transact (.wrreg 2) g.init), .command (transact (.wrreg 3) g.xorout), .command (transact .bind)]

/-- The core after the transaction `tr`, a WRREG that leaves the Config `g`. -/
def wrregDone (s : State) (tr : Transaction) (rest : List HostAction) (g : Cfg) : State :=
  (((s.present tr rest).loadCfg g).setBinding false false).respondOk

section Configure

variable {s : State} {rest : List HostAction}

theorem wrregDone_faulted (tr : Transaction) (g : Cfg) : (wrregDone s tr rest g).faulted = s.faulted := by
  simp [wrregDone]

/-- Of one WRREG after another, only the Config shows the first. -/
theorem wrregDone_wrregDone (tr tr' : Transaction) (rest' : List HostAction) (g g' : Cfg) :
    wrregDone (wrregDone s tr rest g) tr' rest' g' = wrregDone s tr' rest' g' := by
  simp only [wrregDone, State.present, State.loadCfg, State.setBinding, State.respondOk, statusBinding_statusBinding]

/-- After a step that answers `t`, the run goes on from `t`. -/
theorem run_succ_of_step {t : State} (n : Nat) (h : step s = .next t) :
    Host.Core.run core (n + 1) s = Host.Core.run core n t := by
  have hcore : core.step s = .next t := h
  simp only [Host.Core.run, hcore]

theorem run_wrreg {n : Nat} {r : BitVec 4} {v : Word} {g : Cfg} (reg : Reg) (hready : s.faulted = false)
    (hreq : s.requests = .command (transact (.wrreg r) v) :: rest) (hreg : regAt r = some reg)
    (hw : cfgWritten s.cfg reg v = some g) :
    Host.Core.run core (n + 1) s = Host.Core.run core n (wrregDone s (transact (.wrreg r) v) rest g) :=
  run_succ_of_step n <| (step_of_decode_ok hreq (decodeOfEncode _ rfl)).trans (exec_wrreg_of_written hready hreg hw)

/-- A WRREG that follows a WRREG. -/
theorem run_wrreg_wrregDone {n : Nat} {tr : Transaction} {r : BitVec 4} {v : Word} {g g' : Cfg} (reg : Reg)
    (hready : s.faulted = false) (hreg : regAt r = some reg) (hw : cfgWritten g reg v = some g') :
    Host.Core.run core (n + 1) (wrregDone s tr (.command (transact (.wrreg r) v) :: rest) g) =
      Host.Core.run core n (wrregDone s (transact (.wrreg r) v) rest g') := by
  rw [run_wrreg reg ((wrregDone_faulted tr g).trans hready) rfl hreg hw, wrregDone_wrregDone]

/-- A BIND that follows a WRREG. -/
theorem run_bind_wrregDone {n : Nat} {tr : Transaction} {g : Cfg} (hready : s.faulted = false) (hk : g.kind < 2)
    (hr : g.kind = 1 → g.rangesOk = true) :
    Host.Core.run core (n + 1) (wrregDone s tr (.command (transact .bind) :: rest) g) =
      Host.Core.run core n ((s.present (transact .bind) rest).loadCfg g).construct.respondOk := by
  rw [← construct_setBinding _ false false]
  exact run_succ_of_step n <| (step_of_decode_ok rfl (decodeOfEncode .bind rfl)).trans <|
    exec_bind_of_valid ((wrregDone_faulted tr g).trans hready) hk hr

/-- The five commands end as the load and the construction at once do. -/
theorem run_configureCommands (g : Cfg) (hready : s.faulted = false) (hctrl : g.ctrl &&& ~~~ctrlWritable = 0)
    (hk : g.kind < 2) (hr : g.kind = 1 → g.rangesOk = true) :
    Host.Core.run core 5 { s with requests := configureCommands g } = .next
      ((s.present (transact .bind) []).loadCfg g).construct.respondOk :=
  calc Host.Core.run core 5 { s with requests := configureCommands g }
    _ = Host.Core.run core 4 (wrregDone s (transact (.wrreg 0) g.ctrl) _ ⟨g.ctrl, s.poly, s.init, s.xorout⟩) :=
      run_wrreg .ctrl hready rfl rfl (by rw [cfgWritten, and_ctrlWritable_of_reserved hctrl]; rfl)
    _ = Host.Core.run core 3 (wrregDone s (transact (.wrreg 1) g.poly) _ ⟨g.ctrl, g.poly, s.init, s.xorout⟩) :=
      run_wrreg_wrregDone .poly hready rfl rfl
    _ = Host.Core.run core 2 (wrregDone s (transact (.wrreg 2) g.init) _ ⟨g.ctrl, g.poly, g.init, s.xorout⟩) :=
      run_wrreg_wrregDone .init hready rfl rfl
    _ = Host.Core.run core 1 (wrregDone s (transact (.wrreg 3) g.xorout) _ g) :=
      run_wrreg_wrregDone .xorout hready rfl rfl
    _ = Host.Core.run core 0 ((s.present (transact .bind) []).loadCfg g).construct.respondOk :=
      run_bind_wrregDone hready hk hr

end Configure

/-! ## PROFILE (40_config.md R107, R108) -/

/-- A row of the ROM as R107's table writes it: CTRL, POLY, INIT, XOROUT. -/
def cfgOfRow (row : Word × Word × Word × Word) : Cfg := ⟨row.1, row.2.1, row.2.2.1, row.2.2.2⟩

theorem exec_profile_of_row {s : State} {k : BitVec 4} {g : Cfg} (hready : s.faulted = false)
    (hrow : profileRom[k.toNat]? = some g) : exec (.profile k) s = .next (s.loadCfg g).construct.respondOk := by
  simp only [exec, execProfile, unlessFaulted_of_ready _ hready, hrow]

/-- Settles O28: the load and the construction at once, and the five commands, which end as those do. -/
theorem profileLoadsAndBindsTheRomRow : Obligations.ProfileLoadsAndBindsTheRomRow := by
  refine ⟨fun w k => decode_eq_ok_iff, fun s k c p i x hready hlist => ?_⟩
  have hrow : profileRom[k.toNat]? = some ⟨c, p, i, x⟩ := by
    have h := congrArg (Option.map cfgOfRow) hlist
    rw [← List.getElem?_map] at h
    exact h
  obtain ⟨hk, hr, hctrl⟩ := profileRom_valid _ (List.mem_of_getElem? hrow)
  refine ⟨_, construct_table_entries (s.loadCfg ⟨c, p, i, x⟩), ?_, _,
    run_configureCommands ⟨c, p, i, x⟩ hready hctrl hk fun _ => hr, construct_cfg _,
    (construct_table _).trans (construct_table (s.loadCfg _)).symm, construct_result _, construct_status_eq _⟩
  rw [exec_profile_of_row hready hrow, construct_frame, construct_status_eq]
  rfl

end Sys2Proof.Proofs

namespace Sys2Proof.Proofs

open Sys2Proof.Machine Sys2Proof.Laws

/-! ## The reflections (41_reflect.md R130, R131): below n, place k goes to place n-1-k and back -/

section ReflectBits

variable (v : Word) {n : Nat} (hn : n ≤ 64)

include hn

theorem reflectBits_getLsbD_mirror {i : Nat} (hi : i < n) : (reflectBits v n).getLsbD (n - 1 - i) = v.getLsbD i := by
  rw [reflectBits_getLsbD v hn, if_pos (Nat.sub_one_sub_lt_of_lt hi), Nat.sub_sub_self (Nat.le_sub_one_of_lt hi)]

theorem reflectBits_getLsbD_of_ge {j : Nat} (hj : n ≤ j) : (reflectBits v n).getLsbD j = v.getLsbD j := by
  rw [reflectBits_getLsbD v hn, if_neg (Nat.not_lt.mpr hj)]

theorem reflectBits_reflectBits : reflectBits (reflectBits v n) n = v := by
  apply BitVec.eq_of_getLsbD_eq
  intro j _
  by_cases hj : j < n
  · rw [reflectBits_getLsbD _ hn, if_pos hj, reflectBits_getLsbD_mirror v hn hj]
  · have hge := Nat.not_lt.mp hj
    rw [reflectBits_getLsbD_of_ge _ hn hge, reflectBits_getLsbD_of_ge v hn hge]

end ReflectBits

/-- Eight bytes are the whole value. -/
theorem word_eq_of_getByte_eq {v w : Word} (h : ∀ k, getByte v k = getByte w k) : v = w := by
  apply BitVec.eq_of_getLsbD_eq
  intro j _
  have hbit := congrArg (fun b : Byte => b.getLsbD (j % 8)) (h (j / 8))
  have hlt : j % 8 < 8 := Nat.mod_lt j (by decide)
  simpa only [getByte_getLsbD, Nat.div_add_mod, hlt, decide_true, Bool.true_and] using hbit

section ReflectBytes

variable (v : Word) {n : Nat} (hn : n ≤ 8)

include hn

/-- R131 byte by byte. -/
theorem getByte_reflectBytes (k : Nat) :
    getByte (reflectBytes v n) k = if k < n then getByte v (n - 1 - k) else getByte v k := by
  apply BitVec.eq_of_getLsbD_eq
  intro i hi
  have hdiv : (8 * k + i) / 8 = k := by omega
  have hmod : (8 * k + i) % 8 = i := by omega
  rw [getByte_getLsbD, reflectBytes_getLsbD v hn, hdiv, hmod]
  by_cases hk : k < n
  · have hlow : 8 * k + i < 8 * n := by omega
    rw [if_pos hk, if_pos hlow, getByte_getLsbD]
  · have hhigh : ¬ 8 * k + i < 8 * n := by omega
    rw [if_neg hk, if_neg hhigh, getByte_getLsbD]

theorem getByte_reflectBytes_mirror {k : Nat} (hk : k < n) :
    getByte (reflectBytes v n) (n - 1 - k) = getByte v k := by
  rw [getByte_reflectBytes v hn, if_pos (Nat.sub_one_sub_lt_of_lt hk), Nat.sub_sub_self (Nat.le_sub_one_of_lt hk)]

theorem getByte_reflectBytes_of_ge {k : Nat} (hk : n ≤ k) : getByte (reflectBytes v n) k = getByte v k := by
  rw [getByte_reflectBytes v hn, if_neg (Nat.not_lt.mpr hk)]

theorem reflectBytes_reflectBytes : reflectBytes (reflectBytes v n) n = v := by
  apply word_eq_of_getByte_eq
  intro k
  by_cases hk : k < n
  · rw [getByte_reflectBytes _ hn, if_pos hk, getByte_reflectBytes_mirror v hn hk]
  · have hge := Nat.not_lt.mp hk
    rw [getByte_reflectBytes_of_ge _ hn hge, getByte_reflectBytes_of_ge v hn hge]

end ReflectBytes

/-! ## RBITS and RBYTES (R133, R134) -/

section Commands

variable {s : State} (hready : s.faulted = false)

include hready

theorem exec_rbits_of_ready (m : BitVec 6) :
    exec (.rbits m) s = .next (s.respondValue (reflectBits s.opa (m.toNat + 1))) :=
  congrArg Host.Outcome.next (unlessFaulted_of_ready _ hready)

theorem exec_rbytes_of_ready (m : BitVec 3) :
    exec (.rbytes m) s = .next (s.respondValue (reflectBytes s.opa (m.toNat + 1))) :=
  congrArg Host.Outcome.next (unlessFaulted_of_ready _ hready)

end Commands

/-- Settles O33: the answer is ReflectBits of OPA at n = m + 1, which is at most 64. -/
theorem rbitsReversesTheLowBits : Obligations.RbitsReversesTheLowBits := by
  refine ⟨fun w m => decode_eq_ok_iff, fun s m hready => ?_⟩
  have hn : m.toNat + 1 ≤ 64 := m.isLt
  exact ⟨_, exec_rbits_of_ready hready m, fun _ hi => reflectBits_getLsbD_mirror s.opa hn hi,
    fun _ hj => reflectBits_getLsbD_of_ge s.opa hn hj⟩

/-- Settles O34: the answer is ReflectBytes of OPA at n = m + 1, which is at most 8. -/
theorem rbytesReversesTheLowBytes : Obligations.RbytesReversesTheLowBytes := by
  refine ⟨fun w m => decode_eq_ok_iff, fun s m hready => ?_⟩
  have hn : m.toNat + 1 ≤ 8 := m.isLt
  exact ⟨_, exec_rbytes_of_ready hready m, fun _ hk => getByte_reflectBytes_mirror s.opa hn hk,
    fun _ hk => getByte_reflectBytes_of_ge s.opa hn hk⟩

/-- Settles O35: a place below n is mirrored there and back, and the others never move. -/
theorem reflectionsAreSelfInverse : Obligations.ReflectionsAreSelfInverse :=
  ⟨fun v _ _ hn => reflectBits_reflectBits v hn, fun v _ _ hn => reflectBytes_reflectBytes v hn⟩

end Sys2Proof.Proofs

namespace Sys2Proof.Proofs

open Sys2Proof.Machine Sys2Proof.Laws

/-! ## The checksum step as integer arithmetic (42_checksum.md R140 to R142) -/

/-- R140's signed byte is the byte in two's complement. -/
theorem byte_toInt_eq (b : Byte) :
    b.toInt = if b.toNat < 128 then (b.toNat : Int) else (b.toNat : Int) - 256 := by
  rw [BitVec.toInt_eq_toNat_cond]
  by_cases h : b.toNat < 128
  · have h2 : 2 * b.toNat < 2 ^ 8 := by omega
    rw [if_pos h, if_pos h2]
  · have h2 : ¬ 2 * b.toNat < 2 ^ 8 := by omega
    rw [if_neg h, if_neg h2]
    rfl

theorem csumStep_toNat (x : Word) (b : Byte) :
    ((csumStep x b).toNat : Int) = ((x.toNat : Int) + b.toInt) % 2 ^ 64 := by
  have hbyte : ((BitVec.ofInt 64 b.toInt).toNat : Int) = b.toInt % 2 ^ 64 := by
    rw [BitVec.toNat_ofInt, Int.toNat_of_nonneg (Int.emod_nonneg _ (by decide))]
    rfl
  rw [csumStep_eq, BitVec.toNat_add, Int.natCast_emod, Int.natCast_add, hbyte]
  exact Int.add_emod_emod ..

/-- Steps in a row add up, since reduction modulo 2^64 may wait until the end. -/
theorem foldl_csumStep_toNat (M : List Byte) (x : Word) :
    ((M.foldl csumStep x).toNat : Int) = ((x.toNat : Int) + (M.map BitVec.toInt).sum) % 2 ^ 64 := by
  induction M generalizing x with
  | nil =>
    have hx : (x.toNat : Int) < 2 ^ 64 := by exact_mod_cast x.isLt
    rw [List.foldl_nil, List.map_nil, List.sum_nil, Int.add_zero, Int.emod_eq_of_lt (Int.natCast_nonneg _) hx]
  | cons b M ih =>
    rw [List.foldl_cons, ih, csumStep_toNat, List.map_cons, List.sum_cons, Int.emod_add_emod, Int.add_assoc]

/-- A value known modulo 2^64 is, once masked, known modulo 2^BITS (R143). -/
theorem and_mask_toNat_of_emod (g : Cfg) {v : Word} {z : Int} (h : (v.toNat : Int) = z % 2 ^ 64) :
    ((v &&& g.mask).toNat : Int) = z % 2 ^ g.bits := by
  rw [g.and_mask_toNat, Int.natCast_emod, h, Int.natCast_pow]
  exact Int.emod_emod_of_dvd z (pow_dvd_pow 2 g.bits_le)

theorem csumCalc_toNat (g : Cfg) (M : List Byte) :
    ((csumCalc g M).toNat : Int) = (M.map BitVec.toInt).sum % 2 ^ g.bits := by
  have hzero : ((0 : Word).toNat : Int) = 0 := rfl
  have h := and_mask_toNat_of_emod g (foldl_csumStep_toNat M 0)
  rwa [hzero, Int.zero_add] at h

theorem csumUpdate_toNat (g : Cfg) (present : Bool) (a : Word) (b : Byte) :
    ((csumUpdate g present a b).toNat : Int) = ((if present then (a.toNat : Int) else 0) + b.toInt) % 2 ^ g.bits := by
  have h := and_mask_toNat_of_emod g (csumStep_toNat (if present then a else 0) b)
  cases present <;> exact h

/-! ## STEP, CALC and UPDATE past their checks (R159, R191, R192) -/

section Commands

variable {s : State} (hready : s.faulted = false) (hbound : s.bound = true)

include hready hbound

theorem exec_step_of_bound (p : Path) (b : Byte) (hr : s.opa ≤ s.cfg.mask) :
    exec (.step p b) s = .next (s.respondValue (perByteStep s.cfg s.table p s.opa b)) := by
  simp only [exec, execStep, unlessFaulted_of_ready _ hready, requireBound_of_bound _ hbound,
    requireOperandInRange_of_le _ hr]

theorem exec_calculate_of_bound (p : Path) :
    exec (.calculate p) s = .next (s.respondValue (calcValue s.cfg s.table p s.msg)) := by
  simp only [exec, execCalculate, unlessFaulted_of_ready _ hready, requireBound_of_bound _ hbound]

/-- OPA is in range where UPDATE reads it. -/
theorem exec_update_of_bound (p : Path) {present : Bool} (b : Byte) (hr : present = true → s.opa ≤ s.cfg.mask) :
    exec (.update p present b) s = .next (s.respondValue (updateValue s.cfg s.table p present s.opa b)) := by
  simp only [exec, execUpdate, unlessFaulted_of_ready _ hready, requireBound_of_bound _ hbound]
  cases present with
  | false => rfl
  | true => rw [if_pos rfl, requireOperandInRange_of_le _ (hr rfl)]

end Commands

/-- Settles O36: the step adds the sign-extended byte modulo 2^64, and STEP's mask leaves that sum modulo 2^BITS. -/
theorem checksumStepAddsTheSignedByte : Obligations.ChecksumStepAddsTheSignedByte := by
  refine ⟨fun x b => ?_, fun s p b hready hbound hk hr => ⟨_, exec_step_of_bound hready hbound p b hr, ?_⟩⟩
  · rw [← byte_toInt_eq]
    exact csumStep_toNat x b
  · rw [perByteStep_checksum hk]
    exact and_mask_toNat_of_emod s.cfg (csumStep_toNat s.opa b)

/-- Settles O37: by induction on the message the fold is the sum modulo 2^64, masked once at the end. -/
theorem checksumOfAMessageIsTheSignedSum : Obligations.ChecksumOfAMessageIsTheSignedSum := by
  intro s p hready hbound hk
  refine ⟨_, exec_calculate_of_bound hready hbound p, ?_⟩
  rw [calcValue_checksum hk]
  exact csumCalc_toNat s.cfg s.msg

/-- Settles O38: the step from the prior, or from 0 where it is absent, then the mask. -/
theorem checksumUpdateAddsToThePrior : Obligations.ChecksumUpdateAddsToThePrior := by
  intro s p present b hready hbound hk hr
  refine ⟨_, exec_update_of_bound hready hbound p b hr, ?_⟩
  rw [updateValue_checksum hk]
  exact csumUpdate_toNat s.cfg present s.opa b

end Sys2Proof.Proofs

namespace Sys2Proof.Proofs

open Sys2Proof.Machine Sys2Proof.Safety Sys2Proof.Laws

/-! ## Values as polynomials over GF(2) (00_scope.md R6 Glossary, 43_crc_core.md R150) -/

section Polynomials

variable (v w : Word)

theorem polyOf_coeff (i : Nat) : (polyOf v).coeff i = if v.getLsbD i then 1 else 0 := by
  simp only [polyOf, Polynomial.finsetSum_coeff, apply_ite (Polynomial.coeff · i), Polynomial.coeff_X_pow,
    Polynomial.coeff_zero]
  by_cases hi : i < 64
  · rw [Finset.sum_eq_single_of_mem i (Finset.mem_range.mpr hi) fun j _ hj => by simp [hj.symm], if_pos rfl]
  · rw [getLsbD_of_ge_64 v (Nat.le_of_not_lt hi)]
    refine Finset.sum_eq_zero fun j hj => ?_
    have hne : i ≠ j := fun h => hi (h ▸ Finset.mem_range.mp hj)
    simp [hne]

theorem polyOf_coeff_eq_zero_iff (i : Nat) : (polyOf v).coeff i = 0 ↔ v.getLsbD i = false := by
  simp [polyOf_coeff]

theorem polyOf_injective : Function.Injective polyOf := by
  intro v w h
  apply BitVec.eq_of_getLsbD_eq
  intro i _
  have hbit : v.getLsbD i = false ↔ w.getLsbD i = false := by
    rw [← polyOf_coeff_eq_zero_iff, ← polyOf_coeff_eq_zero_iff, h]
  exact Bool.eq_iff_iff.mpr (by simpa using not_congr hbit)

theorem polyOf_zero : polyOf 0 = 0 := by
  ext i
  simp [polyOf_coeff]

theorem polyOf_one : polyOf 1 = 1 := by
  ext i
  simp [polyOf_coeff, Polynomial.coeff_one]

/-- Addition over GF(2) is XOR. -/
theorem polyOf_xor : polyOf (v ^^^ w) = polyOf v + polyOf w := by
  ext i
  rw [Polynomial.coeff_add, polyOf_coeff, polyOf_coeff, polyOf_coeff, BitVec.getLsbD_xor]
  cases v.getLsbD i <;> cases w.getLsbD i <;> decide

variable (g : Cfg) {v}

/-- The register values are the polynomials below the generator's degree. -/
theorem polyOf_degree_lt_iff : (polyOf v).degree < g.bits ↔ v ≤ g.mask := by
  simp only [Polynomial.degree_lt_iff_coeff_zero, g.le_mask_iff_bits, polyOf_coeff_eq_zero_iff]

/-- A left shift within the register's width: what it moves past bit BITS-1 are the top `n` bits. -/
theorem X_pow_mul_polyOf {n : Nat} (hn : n ≤ g.bits) (v : Word) :
    Polynomial.X ^ n * polyOf v =
      polyOf ((v <<< n) &&& g.mask) + Polynomial.X ^ g.bits * polyOf (v >>> (g.bits - n)) := by
  have hbits := g.bits_le
  ext j
  rw [Polynomial.coeff_add, Polynomial.coeff_X_pow_mul', Polynomial.coeff_X_pow_mul', polyOf_coeff, polyOf_coeff,
    polyOf_coeff, BitVec.getLsbD_and, BitVec.getLsbD_shiftLeft, BitVec.getLsbD_ushiftRight, g.mask_getLsbD]
  by_cases hj : j < g.bits
  · have hlt : j < 64 := by omega
    have hge : ¬ g.bits ≤ j := by omega
    by_cases hnj : n ≤ j
    · simp [hj, hlt, hge, hnj]
    · simp [hge, hnj]
  · have hge : g.bits ≤ j := by omega
    have hnj : n ≤ j := by omega
    have hplace : g.bits - n + (j - g.bits) = j - n := by omega
    simp [hj, hge, hnj, hplace]

/-- A value of eight bits moved to the top of the register, then on by eight places. -/
theorem X_pow_mul_polyOf_top_byte (hv : ∀ j, 8 ≤ j → v.getLsbD j = false) :
    Polynomial.X ^ 8 * polyOf (v <<< (g.bits - 8)) = Polynomial.X ^ g.bits * polyOf v := by
  have hout : v >>> 8 = 0 := by
    apply BitVec.eq_of_getLsbD_eq
    intro j _
    simp [hv (8 + j) (by omega)]
  have h := X_pow_mul_polyOf g (Nat.sub_le g.bits 8) v
  rw [Nat.sub_sub_self g.bits_ge, hout, polyOf_zero, mul_zero, add_zero, g.and_mask_of_le (top_byte_le g hv)] at h
  rw [← h, ← mul_assoc, ← pow_add, Nat.add_sub_cancel' g.bits_ge]

end Polynomials

/-! ## One round of division -/

theorem one_le_bits (g : Cfg) : 1 ≤ g.bits := le_trans (by decide) g.bits_ge

theorem two_pow_bits_eq (g : Cfg) : 2 ^ g.bits = 2 * 2 ^ (g.bits - 1) := by
  rw [← Nat.pow_succ', Nat.succ_eq_add_one, Nat.sub_add_cancel (one_le_bits g)]

section DivRound

variable {g : Cfg} {c : Word}

theorem shifted_toNat (g : Cfg) (c : Word) : ((c <<< 1) &&& g.mask).toNat = 2 * c.toNat % 2 ^ g.bits := by
  rw [g.and_mask_toNat, BitVec.toNat_shiftLeft, Nat.shiftLeft_eq, pow_one, Nat.mul_comm,
    Nat.mod_mod_of_dvd _ (pow_dvd_pow 2 g.bits_le)]

/-- The round's test of the top bit, as a comparison. -/
theorem topbit_set_iff (hc : c ≤ g.mask) : c &&& g.topbit ≠ 0 ↔ 2 ^ (g.bits - 1) ≤ c.toNat := by
  have hlt : c.toNat < 2 ^ (g.bits - 1 + 1) := by
    rw [Nat.pow_succ', ← two_pow_bits_eq]
    exact (g.le_mask_iff c).mp hc
  have htest : c.toNat.testBit (g.bits - 1) = true ↔ 2 ^ (g.bits - 1) ≤ c.toNat :=
    ⟨Nat.ge_two_pow_of_testBit, fun h => Nat.testBit_of_two_pow_le_and_two_pow_add_one_gt h hlt⟩
  rw [← htest, ne_eq, ← BitVec.toNat_inj, BitVec.toNat_and, g.topbit_toNat, Nat.and_two_pow]
  cases c.toNat.testBit (g.bits - 1) <;> simp

theorem divRound_of_top_clear (hc : c ≤ g.mask) (htop : c.toNat < 2 ^ (g.bits - 1)) :
    divRound g c = (c <<< 1) &&& g.mask :=
  if_neg (mt (topbit_set_iff hc).mp (Nat.not_le.mpr htop))

theorem divRound_of_top_set (hc : c ≤ g.mask) (htop : 2 ^ (g.bits - 1) ≤ c.toNat) :
    divRound g c = ((c <<< 1) &&& g.mask) ^^^ g.poly :=
  if_pos ((topbit_set_iff hc).mpr htop)

/-- What a round moves out of the register: the top bit. -/
theorem shiftRight_top (hc : c ≤ g.mask) :
    c >>> (g.bits - 1) = if 2 ^ (g.bits - 1) ≤ c.toNat then 1 else 0 := by
  have hlt : c.toNat < 2 * 2 ^ (g.bits - 1) := two_pow_bits_eq g ▸ (g.le_mask_iff c).mp hc
  apply BitVec.eq_of_toNat_eq
  rw [BitVec.toNat_ushiftRight, Nat.shiftRight_eq_div_pow]
  split
  case isTrue h => exact Nat.div_eq_of_lt_le (by simpa using h) hlt
  case isFalse h => exact Nat.div_eq_of_lt (Nat.not_le.mp h)

/-- A round multiplies by x, and takes away the generator polynomial where the top bit was set. -/
theorem X_mul_polyOf (hc : c ≤ g.mask) :
    Polynomial.X * polyOf c =
      polyOf (divRound g c) + if 2 ^ (g.bits - 1) ≤ c.toNat then generator g else 0 := by
  have h := X_pow_mul_polyOf g (one_le_bits g) c
  rw [pow_one, shiftRight_top hc] at h
  rw [h]
  split
  case isTrue htop =>
    rw [divRound_of_top_set hc htop, polyOf_xor, generator, polyOf_one, mul_one, add_add_add_comm,
      CharTwo.add_self_eq_zero, add_zero]
  case isFalse htop => rw [divRound_of_top_clear hc (Nat.not_le.mp htop), polyOf_zero, mul_zero]

theorem generator_dvd_divRound (hc : c ≤ g.mask) :
    generator g ∣ Polynomial.X * polyOf c - polyOf (divRound g c) := by
  rw [X_mul_polyOf hc, add_sub_cancel_left]
  split
  · exact dvd_rfl
  · exact dvd_zero _

end DivRound

/-- Settles O39: the top bit decides the branch, and is what the shift takes past BITS. -/
theorem divisionRoundShiftsAndSubtracts : Obligations.DivisionRoundShiftsAndSubtracts := by
  intro g c hpoly hc
  have hbits := two_pow_bits_eq g
  have hlt := (g.le_mask_iff c).mp hc
  refine ⟨fun htop => ?_, fun htop => ?_, divRound_le g hpoly c⟩
  · rw [divRound_of_top_clear hc htop, shifted_toNat, Nat.mod_eq_of_lt (by omega)]
  · rw [divRound_of_top_set hc htop, BitVec.toNat_xor, shifted_toNat, Nat.mod_eq_sub_mod (by omega),
      Nat.mod_eq_of_lt (by omega)]

/-! ## Eight rounds and the two steps (43_crc_core.md R151 to R157) -/

/-- The index of R156, as a value: the byte XORed with the register's top byte. -/
theorem zext64_stepTab_index {g : Cfg} {c : Word} (hc : c ≤ g.mask) (b : Byte) :
    zext64 (((inByte g b ^^^ (c >>> (g.bits - 8))) &&& 0xFF#64).setWidth 8) = inByte g b ^^^ (c >>> (g.bits - 8)) := by
  apply BitVec.eq_of_getLsbD_eq
  intro j _
  rw [zext64_getLsbD, BitVec.getLsbD_setWidth, BitVec.getLsbD_and, ff_getLsbD]
  by_cases hj : j < 8
  · simp [hj]
  · have hbits := g.bits_ge
    have hout := (g.le_mask_iff_bits c).mp hc (g.bits - 8 + j) (by omega)
    simp [hj, inByte_high g b j (Nat.le_of_not_lt hj), hout]

section Division

variable {g : Cfg} {c : Word} (hpoly : g.poly ≤ g.mask)

include hpoly

theorem generator_monic : (generator g).Monic := Polynomial.monic_X_pow_add ((polyOf_degree_lt_iff g).mpr hpoly)

theorem generator_degree : (generator g).degree = g.bits := by
  have hlt := (polyOf_degree_lt_iff g).mpr hpoly
  rw [generator, Polynomial.degree_add_eq_left_of_degree_lt (by rwa [Polynomial.degree_X_pow]), Polynomial.degree_X_pow]

/-- A register value is its own remainder. -/
theorem polyOf_modByMonic_generator (hc : c ≤ g.mask) : polyOf c %ₘ generator g = polyOf c := by
  rw [Polynomial.modByMonic_eq_self_iff (generator_monic hpoly), generator_degree hpoly]
  exact (polyOf_degree_lt_iff g).mpr hc

/-- `n` rounds multiply by x^n, up to multiples of the generator polynomial. -/
theorem generator_dvd_divRound_iterate (hc : c ≤ g.mask) (n : Nat) :
    generator g ∣ Polynomial.X ^ n * polyOf c - polyOf ((divRound g)^[n] c) := by
  induction n with
  | zero => simp
  | succ n ih =>
    have h := dvd_add (ih.mul_left Polynomial.X) (generator_dvd_divRound (divRound_iterate_le g hpoly n hc))
    rw [mul_sub, sub_add_sub_cancel, ← mul_assoc, ← pow_succ'] at h
    rw [Function.iterate_succ_apply']
    exact h

theorem polyOf_div8 (hc : c ≤ g.mask) : polyOf (div8 g c) = (Polynomial.X ^ 8 * polyOf c) %ₘ generator g := by
  rw [← polyOf_modByMonic_generator hpoly (div8_le g hpoly hc)]
  exact (Polynomial.modByMonic_eq_of_dvd_sub (generator_monic hpoly)
    (generator_dvd_divRound_iterate hpoly hc 8)).symm

theorem polyOf_tableEntry (d : Byte) :
    polyOf (tableEntry g d) = (Polynomial.X ^ g.bits * polyOf (zext64 d)) %ₘ generator g := by
  rw [tableEntry, polyOf_div8 hpoly (top_byte_le g (zext64_high d)), X_pow_mul_polyOf_top_byte g (zext64_high d)]

theorem polyOf_stepBit (hc : c ≤ g.mask) (b : Byte) : polyOf (stepBit g c b) =
    (Polynomial.X ^ 8 * polyOf c + Polynomial.X ^ g.bits * polyOf (inByte g b)) %ₘ generator g := by
  rw [stepBit, polyOf_div8 hpoly (g.xor_le_mask hc (top_byte_le g (inByte_high g b))), polyOf_xor, mul_add,
    X_pow_mul_polyOf_top_byte g (inByte_high g b)]

variable {T : Table} (hT : ∀ d, tableEntryAt T d = tableEntry g d)

include hT

/-- The entry reduces the register's top eight bits and the byte together; the other bits only move. -/
theorem polyOf_stepTab (hc : c ≤ g.mask) (b : Byte) : polyOf (stepTab g T c b) =
    (Polynomial.X ^ 8 * polyOf c + Polynomial.X ^ g.bits * polyOf (inByte g b)) %ₘ generator g := by
  rw [stepTab, hT, polyOf_xor, polyOf_tableEntry hpoly, zext64_stepTab_index hc, polyOf_xor,
    ← polyOf_modByMonic_generator hpoly (g.and_mask_le (c <<< 8)), ← Polynomial.add_modByMonic,
    X_pow_mul_polyOf g g.bits_ge, mul_add, add_assoc, add_comm (_ * polyOf (inByte g b))]

/-- Two register values with one remainder are the same value (R157). -/
theorem stepTab_eq_stepBit (hc : c ≤ g.mask) (b : Byte) : stepTab g T c b = stepBit g c b :=
  polyOf_injective ((polyOf_stepTab hpoly hT hc b).trans (polyOf_stepBit hpoly hc b).symm)

end Division

/-! ## The input byte and the table (43_crc_core.md R152, R154, R155) -/

/-- Settles O40: by R152 bit by bit. -/
theorem inputByteIsReflectedUnderRefin : Obligations.InputByteIsReflectedUnderRefin := by
  intro g b i hi
  have hlt : (inByte g b).toNat < 2 ^ 8 := Nat.lt_pow_two_of_testBit _ (inByte_high g b)
  refine ⟨Nat.le_of_lt_succ hlt, fun hrefin => ?_, fun hrefin => ?_⟩
  · rw [inByte_getLsbD, hrefin, if_neg (by simp)]
  · have hplace : 7 - (7 - i) = i := Nat.sub_sub_self (Nat.le_of_lt_succ hi)
    have hlow : 7 - i < 8 := by omega
    rw [inByte_getLsbD, if_pos ⟨hrefin, hlow⟩, hplace]

theorem tableEntry_zero {g : Cfg} (hpoly : g.poly ≤ g.mask) : tableEntry g 0 = 0 := by
  have hbyte : zext64 0 = 0 := rfl
  apply polyOf_injective
  rw [polyOf_tableEntry hpoly, hbyte, polyOf_zero, mul_zero, Polynomial.zero_modByMonic]

/-- x^BITS is POLY, up to the generator polynomial. -/
theorem tableEntry_one {g : Cfg} (hpoly : g.poly ≤ g.mask) : tableEntry g 1 = g.poly := by
  have hbyte : zext64 1 = 1 := rfl
  have hdvd : generator g ∣ Polynomial.X ^ g.bits - polyOf g.poly := by
    rw [CharTwo.sub_eq_add]
    exact dvd_rfl
  apply polyOf_injective
  rw [polyOf_tableEntry hpoly, hbyte, polyOf_one, mul_one,
    Polynomial.modByMonic_eq_of_dvd_sub (generator_monic hpoly) hdvd, polyOf_modByMonic_generator hpoly hpoly]

/-- The table reads POLY and the width. -/
theorem tableEntry_congr {g g' : Cfg} (hpoly : g'.poly = g.poly) (hwidth : g'.wbytes = g.wbytes) (d : Byte) :
    tableEntry g' d = tableEntry g d := by
  have hbits : g'.bits = g.bits := by rw [Cfg.bits, Cfg.bytes, hwidth]; rfl
  have hround : divRound g' = divRound g := by
    funext c
    rw [divRound, divRound, Cfg.topbit, Cfg.topbit, Cfg.mask, Cfg.mask, hbits, hpoly]
  rw [tableEntry, tableEntry, div8, div8, hround, hbits]

/-- Settles O41: each entry is eight rounds, and 0 and x^BITS have the remainders 0 and POLY. -/
theorem tableHoldsTheRemainderOfEveryByte : Obligations.TableHoldsTheRemainderOfEveryByte := by
  intro g hpoly
  exact ⟨fun d => ⟨buildTable_get g d, tableEntry_le g hpoly d, polyOf_tableEntry hpoly d⟩, tableEntry_zero hpoly,
    tableEntry_one hpoly, fun _ d hp hw => tableEntry_congr hp hw d⟩

/-! ## A good state bound to a Crc Config (10_state.md R40) -/

section GoodState

variable {s : State} (h : StateInv s) (hbound : s.bound = true) (hk : s.cfg.kind = 1)

include h hbound hk

theorem poly_le_mask_of_bound : s.cfg.poly ≤ s.cfg.mask := (h.bound_ranges hbound hk).1

theorem table_current_of_bound (d : Byte) : tableEntryAt s.table d = tableEntry s.cfg d :=
  h.table_current (h.tableValid_iff.mpr ⟨hbound, hk⟩) d

theorem stepTab_eq_stepBit_of_bound {c : Word} (hc : c ≤ s.cfg.mask) (b : Byte) :
    stepTab s.cfg s.table c b = stepBit s.cfg c b :=
  stepTab_eq_stepBit (poly_le_mask_of_bound h hbound hk) (table_current_of_bound h hbound hk) hc b

/-- On either path the step is the bitwise one. -/
theorem perByteStep_eq_stepBit {c : Word} (hc : c ≤ s.cfg.mask) (p : Path) (b : Byte) :
    perByteStep s.cfg s.table p c b = stepBit s.cfg c b := by
  have hne : s.cfg.kind ≠ 0 := by rw [hk]; decide
  cases p with
  | bitwise => exact if_neg hne
  | table => exact (if_neg hne).trans (stepTab_eq_stepBit_of_bound h hbound hk hc b)

end GoodState

/-- Settles O45: the two steps have the same remainder, and the register value is its remainder. -/
theorem tableStepEqualsBitwiseStep : Obligations.TableStepEqualsBitwiseStep :=
  fun _ _ b h hbound hk hc => stepTab_eq_stepBit_of_bound h hbound hk hc b

/-- Settles O44: on either path the step is StepBit, eight rounds on the register with the byte at its top. -/
theorem stepIsPolynomialDivision : Obligations.StepIsPolynomialDivision := by
  intro s p b h hready hbound hk hr
  have hpoly := poly_le_mask_of_bound h hbound hk
  refine ⟨_, exec_step_of_bound hready hbound p b hr, ?_⟩
  rw [perByteStep_eq_stepBit h hbound hk hr]
  exact ⟨stepBit_le s.cfg hpoly hr b, polyOf_stepBit hpoly hr b⟩

/-! ## The checks of STEP and TREAD (R159, R160) -/

section Commands

variable {s : State} (hready : s.faulted = false)

include hready

theorem exec_step_of_unbound (hbound : s.bound = false) (p : Path) (b : Byte) :
    exec (.step p b) s = .next (s.raise .notBound) := by
  simp only [exec, execStep, unlessFaulted_of_ready _ hready, requireBound_of_unbound _ hbound]

theorem exec_step_of_out_of_range (hbound : s.bound = true) (hr : s.cfg.mask < s.opa) (p : Path) (b : Byte) :
    exec (.step p b) s = .next (s.raise .operandRange) := by
  simp only [exec, execStep, unlessFaulted_of_ready _ hready, requireBound_of_bound _ hbound,
    requireOperandInRange_of_gt _ hr]

theorem exec_tread_of_unbound (hbound : s.bound = false) (x : Byte) :
    exec (.tread x) s = .next (s.raise .notBound) := by
  simp only [exec, execTread, unlessFaulted_of_ready _ hready, requireBound_of_unbound _ hbound]

theorem exec_tread_of_checksum (hbound : s.bound = true) (hk : s.cfg.kind = 0) (x : Byte) :
    exec (.tread x) s = .next (s.raise .noTable) := by
  simp only [exec, execTread, unlessFaulted_of_ready _ hready, requireBound_of_bound _ hbound,
    requireTable_of_checksum _ hk]

theorem exec_tread_of_crc (hbound : s.bound = true) (hk : s.cfg.kind ≠ 0) (x : Byte) :
    exec (.tread x) s = .next (s.respondValue (tableEntryAt s.table x)) := by
  simp only [exec, execTread, unlessFaulted_of_ready _ hready, requireBound_of_bound _ hbound,
    requireTable_of_crc _ hk]

end Commands

/-- Settles O42: TREAD's checks in order, and the table of a good state, which is current. -/
theorem treadReturnsTheTableEntry : Obligations.TreadReturnsTheTableEntry := by
  refine ⟨fun w x => decode_eq_ok_iff, fun s x hready => ⟨fun hb => exec_tread_of_unbound hready hb x,
    fun hb hk => exec_tread_of_checksum hready hb hk x,
    fun hb hk => ⟨exec_tread_of_crc hready hb hk x, fun h => ?_⟩⟩⟩
  have hcrc : s.cfg.kind = 1 := (h.bound_kind hb).resolve_left hk
  have hpoly := poly_le_mask_of_bound h hb hcrc
  have hentry : s.table[x.toNat]'x.isLt = tableEntry s.cfg x := table_current_of_bound h hb hcrc x
  rw [hentry]
  exact ⟨fun hx => by rw [hx, tableEntry_zero hpoly], fun hx => by rw [hx, tableEntry_one hpoly]; rfl⟩

theorem zero_le_mask (g : Cfg) : 0 ≤ g.mask := BitVec.le_def.mpr (Nat.zero_le _)

/-- A zero byte leaves a zero register (R159). -/
theorem stepBit_zero {g : Cfg} (hpoly : g.poly ≤ g.mask) : stepBit g 0 0 = 0 := by
  have hbyte : inByte g 0 = 0 := by
    apply BitVec.eq_of_getLsbD_eq
    intro j _
    rw [inByte_getLsbD]
    simp
  apply polyOf_injective
  rw [polyOf_stepBit hpoly (zero_le_mask g), hbyte, polyOf_zero, mul_zero, mul_zero, add_zero,
    Polynomial.zero_modByMonic]

/-- Settles O43: STEP's checks in order, then the step of the kind and the path. -/
theorem stepChecksThenSteps : Obligations.StepChecksThenSteps := by
  refine ⟨fun w p b => ?_, fun s p b hready => ⟨fun hb => exec_step_of_unbound hready hb p b,
    fun hb hr => exec_step_of_out_of_range hready hb hr p b, fun hb hr => ?_, fun h hb hk hopa => ?_⟩⟩
  · rw [← pathOf_eq_iff]
    exact decode_eq_ok_iff
  · rw [exec_step_of_bound hready hb p b hr]
    cases p with
    | bitwise | table => rfl
  · have hr : s.opa ≤ s.cfg.mask := hopa ▸ zero_le_mask _
    have hzero : perByteStep s.cfg s.table p s.opa 0 = 0 := by
      rw [perByteStep_eq_stepBit h hb hk hr, hopa, stepBit_zero (poly_le_mask_of_bound h hb hk)]
    rw [exec_step_of_bound hready hb p 0 hr, hzero]
    rfl

end Sys2Proof.Proofs

namespace Sys2Proof.Proofs

open Sys2Proof.Machine Sys2Proof.Safety Sys2Proof.Laws

/-! ## The reflections of the finalize stage (44_finalize.md R180, R181) -/

/-- ReflectBits where REFOUT = 1 (R180, first step). -/
def outBits (g : Cfg) (r : Word) : Word := if g.refout then reflectBits r g.bits else r

/-- ReflectBytes where REFOUTB = 1 (R180, third step). -/
def outBytes (g : Cfg) (v : Word) : Word := if g.refoutb then reflectBytes v g.bytes else v

section FinalizeStage

variable {g : Cfg} (r : Word)

theorem outBits_outBits : outBits g (outBits g r) = r := by
  unfold outBits
  cases g.refout with
  | false => rfl
  | true => exact reflectBits_reflectBits r g.bits_le

theorem outBytes_outBytes : outBytes g (outBytes g r) = r := by
  unfold outBytes
  cases g.refoutb with
  | false => rfl
  | true => exact reflectBytes_reflectBytes r g.bytes_le

/-- The place that the bit reflection takes bit `j` from. -/
theorem outBits_getLsbD (j : Nat) : (outBits g r).getLsbD j =
    r.getLsbD (if g.refout = true ∧ j < g.bits then g.bits - 1 - j else j) :=
  (refout_getLsbD g r j).trans (apply_ite r.getLsbD _ _ _).symm

/-- The place that the byte reflection takes bit `j` from. -/
theorem outBytes_getLsbD (j : Nat) : (outBytes g r).getLsbD j =
    r.getLsbD (if g.refoutb = true ∧ j < g.bits then 8 * (g.bytes - 1 - j / 8) + j % 8 else j) :=
  (refoutb_getLsbD g r j).trans (apply_ite r.getLsbD _ _ _).symm

/-! ## Finalize and Unfinalize -/

theorem finalize_of_crc (hk : g.kind ≠ 0) : finalize g r = outBytes g (outBits g r ^^^ g.xorout) := if_neg hk

theorem unfinalize_of_crc (hk : g.kind ≠ 0) : unfinalize g r = outBits g (outBytes g r ^^^ g.xorout) := if_neg hk

/-- R182: each step is its own inverse, and Unfinalize takes them in reverse order. -/
theorem unfinalize_finalize : unfinalize g (finalize g r) = r := by
  by_cases hk : g.kind = 0
  · rw [finalize_checksum hk, unfinalize_checksum hk]
  · rw [finalize_of_crc r hk, unfinalize_of_crc _ hk, outBytes_outBytes, BitVec.xor_assoc, BitVec.xor_self,
      BitVec.xor_zero, outBits_outBits]

theorem finalize_unfinalize : finalize g (unfinalize g r) = r := by
  by_cases hk : g.kind = 0
  · rw [unfinalize_checksum hk, finalize_checksum hk]
  · rw [unfinalize_of_crc r hk, finalize_of_crc _ hk, outBits_outBits, BitVec.xor_assoc, BitVec.xor_self,
      BitVec.xor_zero, outBytes_outBytes]

variable {r}

theorem finalize_le (hx : g.kind ≠ 0 → g.xorout ≤ g.mask) (hr : r ≤ g.mask) : finalize g r ≤ g.mask := by
  by_cases hk : g.kind = 0
  · rwa [finalize_checksum hk]
  · rw [finalize_of_crc r hk]
    exact refoutb_le g (g.xor_le_mask (refout_le g hr) (hx hk))

theorem unfinalize_le (hx : g.kind ≠ 0 → g.xorout ≤ g.mask) (hr : r ≤ g.mask) : unfinalize g r ≤ g.mask := by
  by_cases hk : g.kind = 0
  · rwa [unfinalize_checksum hk]
  · rw [unfinalize_of_crc r hk]
    exact refout_le g (g.xor_le_mask (refoutb_le g hr) (hx hk))

end FinalizeStage

/-- R40 (b): a bound core that is no Checksum core has its XOROUT in range. -/
theorem xorout_le_mask_of_bound {s : State} (h : StateInv s) (hbound : s.bound = true) (hk : s.cfg.kind ≠ 0) :
    s.cfg.xorout ≤ s.cfg.mask :=
  (h.bound_ranges hbound ((h.bound_kind hbound).resolve_left hk)).2.2

/-- Settles O48: XOROUT is in range in a good state, and the round trips hold for every Config. -/
theorem finalizeRoundTrips : Obligations.FinalizeRoundTrips := by
  intro s r h hbound hr
  have hx := xorout_le_mask_of_bound h hbound
  exact ⟨unfinalize_finalize r, finalize_unfinalize r, finalize_le hx hr, unfinalize_le hx hr⟩

/-! ## The checks of FINAL and UNFINAL (R184, R185) -/

/-- What FINAL and UNFINAL share: the checks, then the value `v`. -/
def checkedAnswer (s : State) (v : Word) : Host.Outcome State Fault Refusal :=
  .next (unlessFaulted s (requireBound s (requireOperandInRange s (s.respondValue v))))

theorem exec_final (s : State) : exec .final s = checkedAnswer s (finalize s.cfg s.opa) := rfl

theorem exec_unfinal (s : State) : exec .unfinal s = checkedAnswer s (unfinalize s.cfg s.opa) := rfl

section Checks

variable {s : State} (hready : s.faulted = false) (v : Word)

include hready

theorem checkedAnswer_of_unbound (hbound : s.bound = false) : checkedAnswer s v = .next (s.raise .notBound) := by
  rw [checkedAnswer, unlessFaulted_of_ready _ hready, requireBound_of_unbound _ hbound]

theorem checkedAnswer_of_out_of_range (hbound : s.bound = true) (hr : s.cfg.mask < s.opa) :
    checkedAnswer s v = .next (s.raise .operandRange) := by
  rw [checkedAnswer, unlessFaulted_of_ready _ hready, requireBound_of_bound _ hbound,
    requireOperandInRange_of_gt _ hr]

theorem checkedAnswer_of_in_range (hbound : s.bound = true) (hr : s.opa ≤ s.cfg.mask) :
    checkedAnswer s v = .next (s.respondValue v) := by
  rw [checkedAnswer, unlessFaulted_of_ready _ hready, requireBound_of_bound _ hbound,
    requireOperandInRange_of_le _ hr]

end Checks

/-- The mask of a command without a field covers the whole word, so one word decodes to it (30_encoding.md R74). -/
theorem decode_eq_ok_iff_of_no_field {w : CmdWord} {i : Instr}
    (hmask : (opcodeRow (opNumber i)).mask = BitVec.allOnes 32) (hi : FieldsAre w i) :
    decode w = .ok i ↔ w = (opcodeRow (opNumber i)).pat := by
  rw [decode_eq_ok_iff, and_iff_left hi, FitsRow, hmask, BitVec.and_allOnes]

/-- Settles O46: the checks, then Finalize, read from its last step to its first at each bit. -/
theorem finalReflectsThenXorsThenReverses : Obligations.FinalReflectsThenXorsThenReverses := by
  refine ⟨fun w => decode_eq_ok_iff_of_no_field rfl trivial, fun s hready =>
    ⟨fun hb => (exec_final s).trans (checkedAnswer_of_unbound hready _ hb),
      fun hb hr => (exec_final s).trans (checkedAnswer_of_out_of_range hready _ hb hr),
      fun hb hr => ⟨_, (exec_final s).trans (checkedAnswer_of_in_range hready _ hb hr),
        fun hk => finalize_checksum hk _, fun hk j _ => ?_,
        fun h => finalize_le (xorout_le_mask_of_bound h hb) hr⟩⟩⟩
  rw [finalize_of_crc _ hk, outBytes_getLsbD, BitVec.getLsbD_xor]
  exact congrArg (· ^^ _) (refout_getLsbD s.cfg s.opa _)

/-- Settles O47: the checks, then Unfinalize, which gives back what Finalize took. -/
theorem unfinalUndoesTheStepsInReverse : Obligations.UnfinalUndoesTheStepsInReverse := by
  refine ⟨fun w => decode_eq_ok_iff_of_no_field rfl trivial, fun s hready =>
    ⟨fun hb => (exec_unfinal s).trans (checkedAnswer_of_unbound hready _ hb),
      fun hb hr => (exec_unfinal s).trans (checkedAnswer_of_out_of_range hready _ hb hr),
      fun hb hr => ⟨_, (exec_unfinal s).trans (checkedAnswer_of_in_range hready _ hb hr),
        fun hk => unfinalize_checksum hk _, fun hk j _ => ?_,
        fun h => unfinalize_le (xorout_le_mask_of_bound h hb) hr⟩,
      fun h hb r hr => ?_⟩⟩
  · rw [unfinalize_of_crc _ hk, outBits_getLsbD, BitVec.getLsbD_xor]
    exact congrArg (· ^^ _) (refoutb_getLsbD s.cfg s.opa _)
  · have hfinal : finalize s.cfg r ≤ s.cfg.mask := finalize_le (xorout_le_mask_of_bound h hb) hr
    have hexec := checkedAnswer_of_in_range (s := { s with opa := finalize s.cfg r }) hready r hb hfinal
    have hround : unfinalize s.cfg (finalize s.cfg r) = r := unfinalize_finalize r
    exact (exec_unfinal _).trans ((congrArg (checkedAnswer _) hround).trans hexec)

/-- Settles O49: both stages are the identity for KIND = 0, and the sum of no bytes is 0. -/
theorem checksumFinalizeIsTheIdentity : Obligations.ChecksumFinalizeIsTheIdentity := by
  refine fun s hready hb hk => ⟨fun hr => ?_, fun p hmsg => ?_⟩
  · have hanswer := checkedAnswer_of_in_range hready s.opa hb hr
    rw [exec_final, exec_unfinal, finalize_checksum hk, unfinalize_checksum hk]
    exact ⟨hanswer, hanswer⟩
  · have hsum : csumCalc s.cfg s.msg = 0 := by
      rw [hmsg]
      exact BitVec.zero_and
    rw [exec_calculate_of_bound hready hb p, calcValue_checksum hk, hsum]
    rfl

end Sys2Proof.Proofs

namespace Sys2Proof.Proofs

open Sys2Proof.Machine Sys2Proof.Safety Sys2Proof.Laws

/-! ## CALC and UPDATE as steps of the working register (45_facade.md R190, R197)

For either kind both commands take per-byte steps of a register and finalize: a Checksum Config starts from 0, masks at
every step and finalizes by the identity. -/

/-- The register value that CALC, and UPDATE without a prior, start from. -/
def startRegister (g : Cfg) : Word := if g.kind = 0 then 0 else g.init

/-- The register value that UPDATE resumes from. -/
def resumedRegister (g : Cfg) (present : Bool) (a : Word) : Word :=
  if present then unfinalize g a else startRegister g

section Values

variable {g : Cfg} (T : Table) (p : Path)

theorem perByteStep_of_crc (hk : g.kind ≠ 0) :
    perByteStep g T p = fun c b => if p = .bitwise then stepBit g c b else stepTab g T c b := by
  funext c b
  cases p with
  | bitwise | table => exact if_neg hk

theorem calcValue_of_crc (hk : g.kind ≠ 0) (M : List Byte) :
    calcValue g T p M = finalize g (M.foldl (perByteStep g T p) g.init) := if_neg hk

theorem updateValue_of_crc (hk : g.kind ≠ 0) (present : Bool) (a : Word) (b : Byte) :
    updateValue g T p present a b =
      finalize g (perByteStep g T p (if present then unfinalize g a else g.init) b) := if_neg hk

/-- Masking at every step leaves what masking once at the end does (R143). -/
theorem foldl_perByteStep_checksum (hk : g.kind = 0) (M : List Byte) (c : Word) :
    M.foldl (perByteStep g T p) (c &&& g.mask) = M.foldl csumStep c &&& g.mask := by
  induction M generalizing c with
  | nil => rfl
  | cons b M ih => rw [List.foldl_cons, perByteStep_checksum hk, csumStep_mask, ih, List.foldl_cons]

theorem calcValue_eq_finalize_foldl (M : List Byte) :
    calcValue g T p M = finalize g (M.foldl (perByteStep g T p) (startRegister g)) := by
  unfold startRegister
  by_cases hk : g.kind = 0
  · have hzero : (0 : Word) = 0 &&& g.mask := BitVec.zero_and.symm
    rw [calcValue_checksum hk, finalize_checksum hk, if_pos hk, csumCalc, ← foldl_perByteStep_checksum T p hk, ← hzero]
  · rw [calcValue_of_crc T p hk, if_neg hk]

theorem updateValue_eq_finalize_step (present : Bool) (a : Word) (b : Byte) :
    updateValue g T p present a b = finalize g (perByteStep g T p (resumedRegister g present a) b) := by
  unfold resumedRegister startRegister
  by_cases hk : g.kind = 0
  · rw [updateValue_checksum hk, finalize_checksum hk, perByteStep_checksum hk, unfinalize_checksum hk, if_pos hk,
      csumUpdate]
  · rw [updateValue_of_crc T p hk, if_neg hk]

end Values

/-! ## The register of a good bound core: its range, and the path it does not depend on (R40, R157) -/

section GoodBound

variable {s : State} (h : StateInv s) (hbound : s.bound = true)

include h hbound

theorem startRegister_le : startRegister s.cfg ≤ s.cfg.mask := by
  unfold startRegister
  split
  case isTrue => exact zero_le_mask _
  case isFalse hk => exact (h.bound_ranges hbound ((h.bound_kind hbound).resolve_left hk)).2.1

theorem resumedRegister_le {present : Bool} {a : Word} (hr : present = true → a ≤ s.cfg.mask) :
    resumedRegister s.cfg present a ≤ s.cfg.mask := by
  cases present with
  | false => exact startRegister_le h hbound
  | true => exact unfinalize_le (xorout_le_mask_of_bound h hbound) (hr rfl)

variable {c : Word} (hc : c ≤ s.cfg.mask)

include hc

theorem perByteStep_le (p : Path) (b : Byte) : perByteStep s.cfg s.table p c b ≤ s.cfg.mask := by
  rcases h.bound_kind hbound with hk | hk
  · rw [perByteStep_checksum hk]
    exact Cfg.and_mask_le _ _
  · rw [perByteStep_eq_stepBit h hbound hk hc]
    exact stepBit_le _ (poly_le_mask_of_bound h hbound hk) hc b

/-- On either path the step is the bitwise one, which reads no table: `T` is any. -/
theorem perByteStep_eq_bitwise (T : Table) (p : Path) (b : Byte) :
    perByteStep s.cfg s.table p c b = perByteStep s.cfg T .bitwise c b := by
  rcases h.bound_kind hbound with hk | hk
  · rw [perByteStep_checksum hk, perByteStep_checksum hk]
  · have hne : s.cfg.kind ≠ 0 := by rw [hk]; decide
    rw [perByteStep_eq_stepBit h hbound hk hc, perByteStep_of_crc T .bitwise hne]
    exact (if_pos rfl).symm

theorem foldl_perByteStep_le (p : Path) (M : List Byte) :
    M.foldl (perByteStep s.cfg s.table p) c ≤ s.cfg.mask := by
  induction M generalizing c with
  | nil => exact hc
  | cons b M ih => exact ih (perByteStep_le h hbound hc p b)

theorem foldl_perByteStep_eq_bitwise (T : Table) (p : Path) (M : List Byte) :
    M.foldl (perByteStep s.cfg s.table p) c = M.foldl (perByteStep s.cfg T .bitwise) c := by
  induction M generalizing c with
  | nil => rfl
  | cons b M ih =>
    rw [List.foldl_cons, List.foldl_cons, ← perByteStep_eq_bitwise h hbound hc T p b]
    exact ih (perByteStep_le h hbound hc p b)

omit hc

theorem calcValue_eq_bitwise (T : Table) (p : Path) (M : List Byte) :
    calcValue s.cfg s.table p M = calcValue s.cfg T .bitwise M := by
  rw [calcValue_eq_finalize_foldl, calcValue_eq_finalize_foldl,
    foldl_perByteStep_eq_bitwise h hbound (startRegister_le h hbound) T]

variable {present : Bool} {a : Word} (hr : present = true → a ≤ s.cfg.mask)

include hr

theorem updateValue_eq_bitwise (T : Table) (p : Path) (b : Byte) :
    updateValue s.cfg s.table p present a b = updateValue s.cfg T .bitwise present a b := by
  rw [updateValue_eq_finalize_step, updateValue_eq_finalize_step,
    perByteStep_eq_bitwise h hbound (resumedRegister_le h hbound hr) T]

theorem updateValue_le (p : Path) (b : Byte) : updateValue s.cfg s.table p present a b ≤ s.cfg.mask := by
  rw [updateValue_eq_finalize_step]
  exact finalize_le (xorout_le_mask_of_bound h hbound) (perByteStep_le h hbound (resumedRegister_le h hbound hr) p b)

end GoodBound

/-! ## The checks of CALC and UPDATE (R191, R192) -/

section Commands

variable {s : State} (hready : s.faulted = false)

include hready

theorem exec_calculate_of_unbound (hbound : s.bound = false) (p : Path) :
    exec (.calculate p) s = .next (s.raise .notBound) := by
  simp only [exec, execCalculate, unlessFaulted_of_ready _ hready, requireBound_of_unbound _ hbound]

theorem exec_update_of_unbound (hbound : s.bound = false) (p : Path) (present : Bool) (b : Byte) :
    exec (.update p present b) s = .next (s.raise .notBound) := by
  simp only [exec, execUpdate, unlessFaulted_of_ready _ hready, requireBound_of_unbound _ hbound]

theorem exec_update_of_out_of_range (hbound : s.bound = true) (hr : s.cfg.mask < s.opa) (p : Path) (b : Byte) :
    exec (.update p true b) s = .next (s.raise .operandRange) := by
  simp only [exec, execUpdate, unlessFaulted_of_ready _ hready, requireBound_of_bound _ hbound, if_true,
    requireOperandInRange_of_gt _ hr]

end Commands

/-! ## The path bit (R195) -/

section PathBit

variable {s : State}

/-- What comes after a check has to agree only where the check passes. -/
theorem requireBound_congr {t u : State} (h : s.bound = true → t = u) : requireBound s t = requireBound s u :=
  ite_congr rfl h fun _ => rfl

theorem requireOperandInRange_congr {t u : State} (h : s.opa ≤ s.cfg.mask → t = u) :
    requireOperandInRange s t = requireOperandInRange s u :=
  ite_congr rfl (fun _ => rfl) fun hr => h ((s.cfg.outOfRange_eq_false s.opa).mp (by simpa using hr))

theorem checkedBound_congr {t u : State} (h : s.bound = true → t = u) :
    (.next (unlessFaulted s (requireBound s t)) : Host.Outcome State Fault Refusal) =
      .next (unlessFaulted s (requireBound s u)) := by
  rw [requireBound_congr h]

variable (h : StateInv s) (p : Path)

include h

theorem exec_calculate_eq_bitwise : exec (.calculate p) s = exec (.calculate .bitwise) s :=
  checkedBound_congr fun hbound => congrArg s.respondValue (calcValue_eq_bitwise h hbound s.table p s.msg)

theorem exec_step_eq_bitwise (b : Byte) : exec (.step p b) s = exec (.step .bitwise b) s :=
  checkedBound_congr fun hbound => requireOperandInRange_congr fun hr =>
    congrArg s.respondValue (perByteStep_eq_bitwise h hbound hr s.table p b)

/-- OPA is checked, and has to be in range, only where a prior is present. -/
theorem exec_update_eq_bitwise (present : Bool) (b : Byte) :
    exec (.update p present b) s = exec (.update .bitwise present b) s := by
  have hvalue (hbound : s.bound = true) (hr : present = true → s.opa ≤ s.cfg.mask) :=
    congrArg s.respondValue (updateValue_eq_bitwise h hbound hr s.table p b)
  refine checkedBound_congr fun hbound => ?_
  cases present with
  | false => exact hvalue hbound nofun
  | true => exact requireOperandInRange_congr fun hr => hvalue hbound fun _ => hr

end PathBit

/-- Settles O50: the check, the fold of the path's step, and the paths' agreement in a good state. -/
theorem calcStepsThroughTheMessage : Obligations.CalcStepsThroughTheMessage := by
  refine ⟨fun w p => ?_, fun s p hready => ⟨fun hb => exec_calculate_of_unbound hready hb p, fun hb => ?_,
    fun h q => (exec_calculate_eq_bitwise h p).trans (exec_calculate_eq_bitwise h q).symm⟩⟩
  · rw [← pathOf_eq_iff]
    exact decode_eq_ok_iff
  · intro step1 v
    have hv : calcValue s.cfg s.table p s.msg = v := by
      by_cases hk : s.cfg.kind = 0
      · exact (calcValue_checksum hk s.table p s.msg).trans (if_pos hk).symm
      · rw [calcValue_of_crc _ _ hk, perByteStep_of_crc _ _ hk]
        exact (if_neg hk).symm
    rw [exec_calculate_of_bound hready hb p, hv]
    rfl

/-- Settles O51: the checks, one step of the resumed register, and the bound of what Finalize gives. -/
theorem updateResumesFromThePrior : Obligations.UpdateResumesFromThePrior := by
  refine ⟨fun w p v b => ?_, fun s p present b hready => ⟨fun hb => exec_update_of_unbound hready hb p present b,
    fun hb hpresent hr => hpresent ▸ exec_update_of_out_of_range hready hb hr p b, fun hb hr => ?_⟩⟩
  · rw [← pathOf_eq_iff]
    exact decode_eq_ok_iff
  · intro w v
    have hv : updateValue s.cfg s.table p present s.opa b = v := by
      by_cases hk : s.cfg.kind = 0
      · exact (updateValue_checksum hk s.table p present s.opa b).trans (if_pos hk).symm
      · rw [updateValue_of_crc _ _ hk, perByteStep_of_crc _ _ hk]
        exact (if_neg hk).symm
    rw [exec_update_of_bound hready hb p b hr, hv]
    exact ⟨rfl, fun h => hv ▸ updateValue_le h hb hr p b⟩

/-- Settles O55: on the table path each command does what it does on the bitwise one. -/
theorem pathBitChangesNoResult : Obligations.PathBitChangesNoResult :=
  fun _ present b h => ⟨(exec_calculate_eq_bitwise h .table).symm, (exec_update_eq_bitwise h .table present b).symm,
    (exec_step_eq_bitwise h .table b).symm⟩

/-- Settles O54: no byte, so no step between the start and Finalize. -/
theorem emptyMessageGivesFinalizedInit : Obligations.EmptyMessageGivesFinalizedInit := by
  refine fun s p hready hb hmsg => ⟨fun hk => (checksumFinalizeIsTheIdentity s hready hb hk).2 p hmsg, fun hk => ?_⟩
  have hne : s.cfg.kind ≠ 0 := by rw [hk]; decide
  have hv : calcValue s.cfg s.table p s.msg = finalize s.cfg s.init := by
    rw [calcValue_of_crc _ _ hne, hmsg, List.foldl_nil]
    rfl
  rw [exec_calculate_of_bound hready hb p, hv]
  rfl

/-- Settles O56: both cores fail the range check, or both answer the bitwise value, which reads the Config only. -/
theorem updateKeepsNoHiddenStream : Obligations.UpdateKeepsNoHiddenStream := by
  intro s s' p present b h h' hready hready' hb hb' hcfg hopa
  by_cases hr : present = true → s.opa ≤ s.cfg.mask
  · have hr' : present = true → s'.opa ≤ s'.cfg.mask := fun hp => hcfg ▸ hopa hp ▸ hr hp
    refine ⟨_, _, exec_update_of_bound hready hb p b hr, exec_update_of_bound hready' hb' p b hr', ?_⟩
    rw [updateValue_eq_bitwise h hb hr s.table, updateValue_eq_bitwise h' hb' hr' s.table, ← hcfg]
    cases present with
    | false => rfl
    | true => rw [hopa rfl]; rfl
  · obtain ⟨rfl, hgt⟩ := Classical.not_imp.mp hr
    have hgt : s.cfg.mask < s.opa := BitVec.not_le.mp hgt
    have hgt' : s'.cfg.mask < s'.opa := hcfg ▸ hopa rfl ▸ hgt
    exact ⟨_, _, exec_update_of_out_of_range hready hb hgt p b, exec_update_of_out_of_range hready' hb' hgt' p b, rfl⟩

/-! ## The message as one polynomial (00_scope.md R6 Glossary, R190) -/

/-- Bytes in a row: each step takes the remainder of the register eight places up with the next byte below it, and the
remainder may wait until the end. -/
theorem polyOf_foldl_perByteStep {s : State} (h : StateInv s) (hbound : s.bound = true) (hk : s.cfg.kind = 1) (p : Path)
    {c : Word} (hc : c ≤ s.cfg.mask) (M : List Byte) :
    polyOf (M.foldl (perByteStep s.cfg s.table p) c) =
      (Polynomial.X ^ (8 * M.length) * polyOf c + Polynomial.X ^ s.cfg.bits * messagePoly s.cfg M) %ₘ
        generator s.cfg := by
  have hpoly := poly_le_mask_of_bound h hbound hk
  induction M generalizing c with
  | nil =>
    rw [List.foldl_nil, List.length_nil, mul_zero, pow_zero, one_mul, messagePoly, mul_zero, add_zero,
      polyOf_modByMonic_generator hpoly hc]
  | cons b M ih =>
    rw [List.foldl_cons, ih (perByteStep_le h hbound hc p b), perByteStep_eq_stepBit h hbound hk hc,
      polyOf_stepBit hpoly hc]
    refine Polynomial.modByMonic_eq_of_dvd_sub (generator_monic hpoly) ?_
    have hdvd := (Polynomial.dvd_modByMonic_sub
      (Polynomial.X ^ 8 * polyOf c + Polynomial.X ^ s.cfg.bits * polyOf (inByte s.cfg b)) (generator s.cfg)).mul_left
        (Polynomial.X ^ (8 * M.length))
    convert hdvd using 1
    rw [messagePoly, List.length_cons]
    ring

/-- Settles O52: `r` is the register after the last byte, from INIT. -/
theorem calcIsTheRemainderOfTheMessage : Obligations.CalcIsTheRemainderOfTheMessage := by
  intro s p h hready hb hk
  have hne : s.cfg.kind ≠ 0 := by rw [hk]; decide
  have hinit : s.init ≤ s.cfg.mask := (h.bound_ranges hb hk).2.1
  refine ⟨s.msg.foldl (perByteStep s.cfg s.table p) s.init, foldl_perByteStep_le h hb hinit p s.msg,
    polyOf_foldl_perByteStep h hb hk p hinit s.msg, ?_⟩
  rw [exec_calculate_of_bound hready hb p, calcValue_of_crc _ _ hne]
  rfl

/-! ## The host's fold of UPDATE (R193) -/

/-- The host's word is decoded to the command it stands for. -/
theorem send_transact {i : Instr} (hi : i.wellFormed = true) (s : State) (opa : Word) (msg : List Byte) :
    send s (transact i opa msg) = exec i (s.present (transact i opa msg) []) :=
  step_of_decode_ok rfl (decodeOfEncode i hi)

/-- The core after an UPDATE of the fold: the value `v` answered, and the ports as the host drove them. -/
def afterUpdate (s : State) (tr : Transaction) (v : Word) : State := (s.present tr []).respondValue v

/-- One UPDATE of the fold, with a prior or without: it answers UPDATE's value `v`, which is the next prior. -/
theorem foldUpdate_cons {s : State} (hready : s.faulted = false) (hbound : s.bound = true) (q : Path) (x : Word)
    {prior : Option Word} (hr : prior.isSome = true → prior.getD x ≤ s.cfg.mask) {b : Byte} {v : Word}
    (hv : updateValue s.cfg s.table q prior.isSome (prior.getD x) b = v) (M : List Byte) :
    foldUpdate q x s prior (b :: M) =
      foldUpdate q x (afterUpdate s (transact (.update q prior.isSome b) (prior.getD x)) v) (some v) M := by
  rw [← hv, foldUpdate, send_transact rfl, exec_update_of_bound (s := s.present _ []) hready hbound q b hr]
  rfl

/-- From the finalized register as its prior the fold takes CALC's steps: Unfinalize gives each register back. -/
theorem foldUpdate_finalize {s : State} (h : StateInv s) (hready : s.faulted = false) (hbound : s.bound = true)
    (q : Path) (x : Word) {c : Word} (hc : c ≤ s.cfg.mask) (M : List Byte) :
    foldUpdate q x s (some (finalize s.cfg c)) M =
      some (finalize s.cfg (M.foldl (perByteStep s.cfg s.table q) c)) := by
  induction M generalizing s c with
  | nil => rfl
  | cons b M ih =>
    have hprior : finalize s.cfg c ≤ s.cfg.mask := finalize_le (xorout_le_mask_of_bound h hbound) hc
    have hresumed : resumedRegister s.cfg true (finalize s.cfg c) = c := unfinalize_finalize c
    have hvalue : updateValue s.cfg s.table q true (finalize s.cfg c) b =
        finalize s.cfg (perByteStep s.cfg s.table q c b) := by
      rw [updateValue_eq_finalize_step, hresumed]
    rw [foldUpdate_cons (prior := some (finalize s.cfg c)) hready hbound q x (fun _ => hprior) hvalue]
    exact ih (s := afterUpdate s _ _) (stateInv_of_same_registers h rfl rfl rfl) hready hbound
      (perByteStep_le h hbound hc q b)

/-- Settles O53: the first UPDATE starts where CALC does, and the rest of the fold takes CALC's steps. -/
theorem updateFoldEqualsCalc : Obligations.UpdateFoldEqualsCalc := by
  refine ⟨fun s p q x M h hready hb hM => ?_, fun _ _ _ => rfl⟩
  obtain ⟨b, M, rfl⟩ := List.exists_cons_of_ne_nil hM
  refine ⟨_, _, (send_transact rfl s x _).trans (exec_calculate_of_bound (s := s.present _ []) hready hb p), rfl, ?_⟩
  have hpaths : calcValue s.cfg s.table q (b :: M) = calcValue s.cfg s.table p (b :: M) :=
    (calcValue_eq_bitwise h hb s.table q _).trans (calcValue_eq_bitwise h hb s.table p _).symm
  have hfirst := updateValue_eq_finalize_step (g := s.cfg) s.table q false x b
  have hregister := perByteStep_le h hb (startRegister_le h hb) q b
  calc foldUpdate q x s none (b :: M)
    _ = foldUpdate q x (afterUpdate s _ _) (some _) M := foldUpdate_cons (prior := none) hready hb q x nofun hfirst M
    _ = some (finalize s.cfg (M.foldl (perByteStep s.cfg s.table q) _)) :=
      foldUpdate_finalize (s := afterUpdate s _ _) (stateInv_of_same_registers h rfl rfl rfl) hready hb q x hregister M
    _ = some (calcValue s.cfg s.table q (b :: M)) := by
      rw [calcValue_eq_finalize_foldl]
      rfl
    _ = some (calcValue s.cfg s.table p (b :: M)) := congrArg some hpaths

end Sys2Proof.Proofs

namespace Sys2Proof.Proofs

open Sys2Proof.Machine Sys2Proof.Safety Sys2Proof.Laws

/-! ## Fault entry (60_exceptions.md R212) -/

section FaultEntry

variable {s t : State} {i : Instr} {c : FaultCode}

/-- A command answers a fault in one way only: it raises it, in a core that is not faulted. -/
theorem eq_raise_of_effect (he : Effect s i t) (hc : t.resp = some (.fault c)) : s.faulted = false ∧ t = s.raise c := by
  cases he with
  | raised _ _ hready => cases hc; exact ⟨hready, rfl⟩
  | refused | nop | value | written | bound | profiled => cases hc

theorem eq_raise_of_step {tr : Transaction} {rest : List HostAction} (hreq : s.requests = .command tr :: rest)
    (hs : step s = .next t) (hc : t.resp = some (.fault c)) : t = (s.present tr rest).raise c := by
  rcases step_effect hreq hs with ⟨i, -, he⟩ | ⟨e, -, ⟨-, rfl⟩ | ⟨-, rfl⟩⟩
  · exact (eq_raise_of_effect he hc).2
  · cases hc
  · cases hc; rfl

end FaultEntry

/-- Settles O14: the next state is `State.raise` of the core with the command on its ports. -/
theorem faultEntryWritesOnlyFaultAndErrcode : Obligations.FaultEntryWritesOnlyFaultAndErrcode := by
  intro s s' tr rest c hreq _ hs hc
  obtain rfl := eq_raise_of_step hreq hs hc
  refine ⟨State.raise_faulted _ c, ?_, State.raise_bound _ c, State.raise_tableValid _ c, fun j h2 h4 => ?_,
    rfl, rfl, rfl, rfl, rfl, rfl⟩
  · rw [State.raise_errcode]
    cases c <;> rfl
  · rw [State.raise_status, statusFaulted_getLsbD, if_neg h2, if_neg h4]
    rfl

/-! ## The faulted core (60_exceptions.md R213, R214, R218) -/

section Faulted

variable {s t : State} {i : Instr} (hf : s.faulted = true)

include hf

/-- A faulted core refuses, or it reads a register. -/
theorem effect_of_faulted (he : Effect s i t) :
    t = s.refuse ∨ ∃ r v, i = .rdreg r ∧ t = s.respondValue v := by
  have never {p : Prop} (hready : s.faulted = false) : p := absurd (hf.symm.trans hready) (by decide)
  cases he with
  | refused => exact .inl rfl
  | value _ v hv =>
    rcases hv with ⟨r, rfl⟩ | hready
    · exact .inr ⟨r, v, rfl, rfl⟩
    · exact never hready
  | raised | nop | written | bound | profiled => exact never ‹_›

/-- RDREG of an index that names no register is refused as every other command is (R214). -/
theorem exec_rdreg_of_faulted {r : BitVec 4} (hr : 8 < r.toNat) : exec (.rdreg r) s = .next s.refuse := by
  have hnone : regAt r = none := by
    rw [← Option.not_isSome_iff_eq_none, regAt_isSome, decide_eq_true_eq]
    omega
  simp only [exec, execRdreg, hnone, unlessFaulted_of_faulted _ hf]

theorem exec_of_faulted (hi : performedWhenFaulted i = false) : exec i s = .next s.refuse := by
  obtain ⟨t, ht, he⟩ := exec_effect i s
  rcases effect_of_faulted hf he with rfl | ⟨r, v, rfl, -⟩
  · exact ht
  · exact exec_rdreg_of_faulted hf (by simpa [performedWhenFaulted] using hi)

/-- Without RESET a faulted core keeps STATUS, and so FAULT and ERRCODE, and raises nothing. -/
theorem step_of_faulted (hreset : ∀ cut rest, s.requests ≠ .reset cut :: rest) (hs : step s = .next t) :
    t.status = s.status ∧ ∀ c, t.resp ≠ some (.fault c) := by
  rcases step_cases hs with ⟨-, rfl⟩ | ⟨cut, rest, hreq, -⟩ | ⟨tr, rest, hreq⟩
  · exact ⟨rfl, nofun⟩
  · exact absurd hreq (hreset cut rest)
  · rcases step_effect hreq hs with ⟨i, -, he⟩ | ⟨e, -, ⟨-, rfl⟩ | ⟨hready, -⟩⟩
    · rcases effect_of_faulted (s := s.present tr rest) hf he with rfl | ⟨r, v, -, rfl⟩
      · exact ⟨rfl, nofun⟩
      · exact ⟨rfl, nofun⟩
    · exact ⟨rfl, nofun⟩
    · exact absurd (hf.symm.trans hready) (by decide)

end Faulted

/-- The host presents one command: the word on CMD decides what is performed. -/
theorem send_of_decode_ok {tr : Transaction} {i : Instr} (hd : decode tr.cmd = .ok i) (s : State) :
    send s tr = exec i (s.present tr []) :=
  step_of_decode_ok rfl hd

/-- Settles O15: a word is an illegal one, or a command that a faulted core does not perform, or RDREG 0..8. -/
theorem faultedCoreRefuses : Obligations.FaultedCoreRefuses := by
  refine ⟨fun s tr rest hreq hf hword => ?_, fun s s' hf hs => ?_⟩
  · cases hd : decode tr.cmd with
    | error e => exact (step_of_decode_error hreq hd).trans (congrArg _ (unlessFaulted_of_faulted _ hf))
    | ok i =>
      have hi : performedWhenFaulted i = false := by
        cases i with
        | rdreg r => exact decide_eq_false (Nat.not_le.mpr (hword r hd))
        | _ => rfl
      exact (step_of_decode_ok hreq hd).trans (exec_of_faulted (s := s.present tr rest) hf hi)
  · refine or_iff_not_imp_right.mpr fun hreset => ?_
    have hstatus := (step_of_faulted hf (fun cut rest hreq => hreset ⟨cut, rest, hreq⟩) hs).1
    rw [State.faulted, hstatus]
    exact hf

/-- Settles O17: FAULT and ERRCODE are fields of STATUS, which a faulted core keeps. -/
theorem errcodeHoldsTheFirstFault : Obligations.ErrcodeHoldsTheFirstFault := by
  intro s s' hf hreset hs
  obtain ⟨hstatus, hresp⟩ := step_of_faulted hf hreset hs
  rw [State.faulted, State.errcode, hstatus]
  exact ⟨hf, rfl, hresp⟩

/-- Settles O16: RDREG has no check for the faulted state where its index names a register. -/
theorem rdregIsPerformedWhileFaulted : Obligations.RdregIsPerformedWhileFaulted := by
  refine fun s tr hf => ⟨fun r v hd hv => ?_, fun r hd hr => ?_, fun e hd => ?_⟩
  · exact ⟨_, (send_of_decode_ok hd s).trans (exec_rdreg_of_value hv), rfl, rfl, rfl⟩
  · exact ⟨_, (send_of_decode_ok hd s).trans (exec_rdreg_of_faulted (s := s.present tr []) hf hr), rfl, rfl⟩
  · obtain ⟨s', hs, -, hrefused⟩ := illegal_word_response hd s
    obtain ⟨hresp, hstatus⟩ := hrefused hf
    exact ⟨s', hs, hresp, congrArg (BitVec.extractLsb' 4 4) hstatus⟩

end Sys2Proof.Proofs

namespace Sys2Proof.Proofs

open Sys2Proof.Machine Sys2Proof.Safety Sys2Proof.Laws

/-! ## The checks in order (60_exceptions.md R215) -/

/-- The outcome `o` that a list of checks leaves to a core that is not faulted: the fault of the first that fails, or OK
where none does. -/
def Decides (checks : List (Bool × FaultCode)) (s : State) (o : Host.Outcome State Fault Refusal) : Prop :=
  match checks.find? (·.1) with
  | some check => o = .next (s.raise check.2)
  | none => ∃ t v, o = .next t ∧ t.resp = some (.ok v)

section Decides

variable {s : State} {o : Host.Outcome State Fault Refusal} {checks : List (Bool × FaultCode)}

theorem decides_cons {fails : Bool} {c : FaultCode} (hfail : fails = true → o = .next (s.raise c))
    (hpass : fails = false → Decides checks s o) : Decides ((fails, c) :: checks) s o := by
  cases fails with
  | true => exact hfail rfl
  | false => exact hpass rfl

/-- No check is left to fail. -/
theorem decides_nil {t : State} {v : Option Word} (ho : o = .next t) (hresp : t.resp = some (.ok v)) :
    Decides [] s o :=
  ⟨t, v, ho, hresp⟩

theorem Decides.raise {check : Bool × FaultCode} (h : Decides checks s o)
    (hfind : checks.find? (·.1) = some check) : o = .next (s.raise check.2) := by
  simpa only [Decides, hfind] using h

theorem Decides.ok (h : Decides checks s o) (hfind : checks.find? (·.1) = none) :
    ∃ t v, o = .next t ∧ t.resp = some (.ok v) := by
  simpa only [Decides, hfind] using h

theorem decides_bound (hfail : s.bound = false → o = .next (s.raise .notBound))
    (hpass : s.bound = true → Decides checks s o) : Decides ((!s.bound, .notBound) :: checks) s o :=
  decides_cons (fun h => hfail (by simpa using h)) fun h => hpass (by simpa using h)

theorem decides_range (hfail : s.cfg.mask < s.opa → o = .next (s.raise .operandRange))
    (hpass : s.opa ≤ s.cfg.mask → Decides checks s o) :
    Decides ((decide (s.cfg.mask < s.opa), .operandRange) :: checks) s o :=
  decides_cons (fun h => hfail (of_decide_eq_true h)) fun h => hpass (BitVec.not_lt.mp (of_decide_eq_false h))

end Decides

section ChecksOfCommands

variable {s : State} (hready : s.faulted = false)

include hready

/-- NOP, RBITS and RBYTES have no check of their own. -/
theorem unchecked_decides {t : State} {v : Option Word} (hresp : t.resp = some (.ok v)) :
    Decides [] s (.next (unlessFaulted s t)) :=
  decides_nil (congrArg Host.Outcome.next (unlessFaulted_of_ready t hready)) hresp

theorem wrreg_decides (r : BitVec 4) : Decides [(decide (3 < r.toNat), .badReg)] s (exec (.wrreg r) s) := by
  refine decides_cons (fun h => exec_wrreg_of_bad_index hready (of_decide_eq_true h)) fun h => ?_
  have hle : r.toNat ≤ 3 := Nat.not_lt.mp (of_decide_eq_false h)
  have hreg : r = 0 ∨ r = 1 ∨ r = 2 ∨ r = 3 := by bv_omega
  rcases hreg with rfl | rfl | rfl | rfl <;> exact decides_nil (exec_wrreg_of_written hready rfl rfl) rfl

theorem rdreg_decides (r : BitVec 4) : Decides [(decide (8 < r.toNat), .badReg)] s (exec (.rdreg r) s) := by
  refine decides_cons (fun h => exec_rdreg_of_bad_index hready (of_decide_eq_true h)) fun h => ?_
  have hsome : (regAt r).isSome = true := by
    rw [regAt_isSome]
    exact decide_eq_true (Nat.not_lt.mp (of_decide_eq_false h))
  obtain ⟨reg, hreg⟩ := Option.isSome_iff_exists.mp hsome
  exact decides_nil (exec_rdreg_of_index hreg) rfl

/-- BIND: the variant, then the ranges of a Crc Config. -/
theorem bind_decides : Decides [(decide (2 ≤ s.cfg.kind.toNat), .variant),
    (decide (s.cfg.kind = 1) && decide (s.cfg.mask < s.poly ∨ s.cfg.mask < s.init ∨ s.cfg.mask < s.xorout), .cfgRange)]
    s (exec .bind s) := by
  have hranges : s.cfg.rangesOk = false ↔ s.cfg.mask < s.poly ∨ s.cfg.mask < s.init ∨ s.cfg.mask < s.xorout := by
    rw [← Bool.not_eq_true, rangesOk_iff, not_and_or, not_and_or, BitVec.not_le, BitVec.not_le, BitVec.not_le]
    rfl
  refine decides_cons (fun hk => ?_) fun hk => decides_cons (fun hr => ?_) fun hr => ?_
  · exact exec_bind_of_unsupported hready (BitVec.le_def.mpr (of_decide_eq_true hk))
  · rw [Bool.and_eq_true, decide_eq_true_eq, decide_eq_true_eq, ← hranges] at hr
    exact exec_bind_of_bad_range hready hr.1 hr.2
  · have hvalid : s.cfg.kind = 1 → s.cfg.rangesOk = true := fun h1 => by
      rw [decide_eq_true h1, Bool.true_and, decide_eq_false_iff_not, ← hranges, Bool.not_eq_false] at hr
      exact hr
    have hsupported : s.cfg.kind < 2 := BitVec.lt_def.mpr (Nat.not_le.mp (of_decide_eq_false hk))
    exact decides_nil (exec_bind_of_valid hready hsupported hvalid) rfl

theorem profile_decides {k : BitVec 4} (hk : (Instr.profile k).wellFormed = true) :
    Decides [] s (exec (.profile k) s) :=
  have hlength : k.toNat < profileRom.length := of_decide_eq_true hk
  decides_nil (exec_profile_of_row hready (List.getElem?_eq_getElem hlength)) rfl

theorem calculate_decides (p : Path) : Decides [(!s.bound, .notBound)] s (exec (.calculate p) s) :=
  decides_bound (fun hb => exec_calculate_of_unbound hready hb p) fun hb =>
    decides_nil (exec_calculate_of_bound hready hb p) rfl

theorem update_decides (p : Path) (present : Bool) (b : Byte) :
    Decides [(!s.bound, .notBound), (present && decide (s.cfg.mask < s.opa), .operandRange)] s
      (exec (.update p present b) s) := by
  refine decides_bound (fun hb => exec_update_of_unbound hready hb p present b) fun hb => ?_
  cases present with
  | false => exact decides_cons nofun fun _ => decides_nil (exec_update_of_bound hready hb p b nofun) rfl
  | true =>
    exact decides_range (fun hr => exec_update_of_out_of_range hready hb hr p b) fun hr =>
      decides_nil (exec_update_of_bound hready hb p b fun _ => hr) rfl

theorem step_decides (p : Path) (b : Byte) :
    Decides [(!s.bound, .notBound), (decide (s.cfg.mask < s.opa), .operandRange)] s (exec (.step p b) s) :=
  decides_bound (fun hb => exec_step_of_unbound hready hb p b) fun hb =>
    decides_range (fun hr => exec_step_of_out_of_range hready hb hr p b) fun hr =>
      decides_nil (exec_step_of_bound hready hb p b hr) rfl

/-- FINAL and UNFINAL. -/
theorem checkedAnswer_decides (v : Word) :
    Decides [(!s.bound, .notBound), (decide (s.cfg.mask < s.opa), .operandRange)] s (checkedAnswer s v) :=
  decides_bound (checkedAnswer_of_unbound hready v) fun hb =>
    decides_range (checkedAnswer_of_out_of_range hready v hb) fun hr =>
      decides_nil (checkedAnswer_of_in_range hready v hb hr) rfl

theorem tread_decides (x : Byte) :
    Decides [(!s.bound, .notBound), (decide (s.cfg.kind = 0), .noTable)] s (exec (.tread x) s) :=
  decides_bound (fun hb => exec_tread_of_unbound hready hb x) fun hb =>
    decides_cons (fun hk => exec_tread_of_checksum hready hb (of_decide_eq_true hk) x) fun hk =>
      decides_nil (exec_tread_of_crc hready hb (of_decide_eq_false hk) x) rfl

/-- The checks of R215 in order decide what a command of a core that is not faulted does: the checks that do not concern
the command drop out, and those left are its own. -/
theorem checksInOrder_decides {i : Instr} (hi : i.wellFormed = true) :
    Decides (checksInOrder i s s.opa) s (exec i s) := by
  cases i with
  | nop => exact unchecked_decides hready rfl
  | wrreg r => exact wrreg_decides hready r
  | rdreg r => exact rdreg_decides hready r
  | bind => exact bind_decides hready
  | profile k => exact profile_decides hready hi
  | calculate p => exact calculate_decides hready p
  | update p present b => exact update_decides hready p present b
  | step p b => exact step_decides hready p b
  | final => exact checkedAnswer_decides hready _
  | unfinal => exact checkedAnswer_decides hready _
  | rbits n => exact unchecked_decides hready rfl
  | rbytes n => exact unchecked_decides hready rfl
  | tread x => exact tread_decides hready x
  | reservedOpD x | reservedOpE x | reservedOpF x => exact congrArg _ (unlessFaulted_of_ready _ hready)

end ChecksOfCommands

/-- A command that a faulted core performs returns a value (R214). -/
theorem exec_of_performedWhenFaulted {i : Instr} (hi : performedWhenFaulted i = true) (s : State) :
    ∃ v, exec i s = .next (s.respondValue v) := by
  cases i with
  | rdreg r =>
    obtain ⟨reg, hreg⟩ := Option.isSome_iff_exists.mp ((regAt_isSome r).trans hi)
    exact ⟨_, exec_rdreg_of_index hreg⟩
  | _ => cases hi

/-- Settles O19: the faulted core first, then the checks of the command in order. -/
theorem firstFailedCheckDecidesTheResponse : Obligations.FirstFailedCheckDecidesTheResponse := by
  intro s tr
  cases hd : decode tr.cmd with
  | error e =>
    obtain ⟨s', hs, hready, hfaulted⟩ := illegal_word_response hd s
    refine ⟨s', hs, ?_⟩
    cases hf : s.faulted with
    | false => exact (hready hf).1
    | true => exact (hfaulted hf).1
  | ok i =>
    rw [send_of_decode_ok hd]
    cases hf : s.faulted with
    | false =>
      have hdecides := checksInOrder_decides (s := s.present tr []) hf (encodeOfDecode _ i hd).1
      simp only [Bool.false_eq_true, if_false]
      cases hfind : (checksInOrder i s tr.opa).find? (·.1) with
      | some check => exact ⟨_, hdecides.raise hfind, rfl⟩
      | none =>
        obtain ⟨s', v, hs, hv⟩ := hdecides.ok hfind
        exact ⟨s', hs, v, hv⟩
    | true =>
      simp only [if_true]
      cases hi : performedWhenFaulted i with
      | true =>
        obtain ⟨v, hv⟩ := exec_of_performedWhenFaulted hi (s.present tr [])
        exact ⟨_, hv, v, rfl⟩
      | false => exact ⟨_, exec_of_faulted (s := s.present tr []) hf hi, rfl⟩

/-! ## The faults of each command (60_exceptions.md R216) -/

/-- A check that a command can fail has its code in the command's row. -/
theorem mem_raisable_of_check {i : Instr} {s : State} {opa : Word} :
    ∀ check ∈ checksInOrder i s opa, check.1 = true → check.2 ∈ raisable i := by
  have hreserved : isReserved i = true → .illegalCmd ∈ raisable i := by cases i <;> simp [isReserved, raisable]
  have hindex : hasBadIndex i = true → .badReg ∈ raisable i := by cases i <;> simp [hasBadIndex, raisable]
  have hbound : needsBound i = true → .notBound ∈ raisable i := by cases i <;> simp [needsBound, raisable]
  have htable : isTread i = true → .noTable ∈ raisable i := by cases i <;> simp [isTread, raisable]
  have hrange : checksOperand i = true → .operandRange ∈ raisable i := by cases i <;> simp [checksOperand, raisable]
  have hbind : isBind i = true → .variant ∈ raisable i ∧ .cfgRange ∈ raisable i := by
    cases i <;> simp [isBind, raisable]
  simp only [checksInOrder, List.forall_mem_cons, Bool.and_eq_true, and_assoc]
  exact ⟨hreserved, hindex, fun h => hbound h.1, fun h => htable h.1, fun h => hrange h.1, fun h => (hbind h.1).1,
    fun h => (hbind h.1).2, nofun⟩

theorem mem_raisable_of_fault {i : Instr} {s t : State} {c : FaultCode} (hi : i.wellFormed = true)
    (h : exec i s = .next t) (hc : t.resp = some (.fault c)) : c ∈ raisable i := by
  obtain ⟨hready, rfl⟩ := eq_raise_of_effect (effect_of_exec h) hc
  have hdecides := checksInOrder_decides hready hi
  cases hfind : (checksInOrder i s s.opa).find? (·.1) with
  | none =>
    obtain ⟨t, v, ht, hv⟩ := hdecides.ok hfind
    cases h.symm.trans ht
    cases hv
  | some check =>
    have heq : s.raise c = s.raise check.2 := Host.Outcome.next.inj (h.symm.trans (hdecides.raise hfind))
    obtain rfl : c = check.2 := by simpa using congrArg State.resp heq
    exact mem_raisable_of_check check (List.mem_of_find?_eq_some hfind) (List.find?_some hfind)

/-- Some command of the OP raises the fault in some good core. -/
def RaisedByOp (op : BitVec 4) (c : FaultCode) : Prop :=
  ∃ j s, opNumber j = op ∧ StateInv s ∧ s.faulted = false ∧ exec j s = .next (s.raise c)

/-- An unbound core that WRREG has given the Config `g`. -/
def unboundCore (g : Cfg) : State := (State.reset.loadCfg g).setBinding false false

/-- A core bound to the 8-bit Checksum, as BIND leaves it after RESET, with an operand that its MASK does not hold. -/
def checksumCore : State := State.reset.construct.present ⟨0, 0x100, []⟩ []

theorem stateInv_unboundCore {g : Cfg} (hg : g.ctrl &&& ~~~ctrlWritable = 0) : StateInv (unboundCore g) :=
  stateInv_loadCfg_unbound stateInv_reset hg

theorem stateInv_checksumCore : StateInv checksumCore :=
  stateInv_present (stateInv_construct stateInv_reset (by decide) fun h => absurd h (by decide)) _ _

/-- Raised where the first check that fails is the fault's. -/
theorem raisedByOp_of_find {j : Instr} {s : State} {c : FaultCode} (hj : j.wellFormed = true) (hs : StateInv s)
    (hready : s.faulted = false) (hfind : (checksInOrder j s s.opa).find? (·.1) = some (true, c)) :
    RaisedByOp (opNumber j) c :=
  ⟨j, s, rfl, hs, hready, (checksInOrder_decides hready hj).raise (check := (true, c)) hfind⟩

theorem raisedByOp_of_reset {j : Instr} {c : FaultCode} (hj : j.wellFormed = true)
    (hfind : (checksInOrder j State.reset 0).find? (·.1) = some (true, c)) : RaisedByOp (opNumber j) c :=
  raisedByOp_of_find hj stateInv_reset rfl hfind

theorem raisedByOp_of_checksumCore {j : Instr} {c : FaultCode} (hj : j.wellFormed = true)
    (hfind : (checksInOrder j checksumCore 0x100).find? (·.1) = some (true, c)) : RaisedByOp (opNumber j) c :=
  raisedByOp_of_find hj stateInv_checksumCore rfl hfind

theorem raisedByOp_of_mem_raisable (i : Instr) : ∀ c ∈ raisable i, RaisedByOp (opNumber i) c := by
  cases i with
  | nop | profile | rbits | rbytes => exact List.forall_mem_nil _
  | wrreg r => exact List.forall_mem_singleton.mpr (raisedByOp_of_reset (j := .wrreg 4) rfl rfl)
  | rdreg r => exact List.forall_mem_singleton.mpr (raisedByOp_of_reset (j := .rdreg 9) rfl rfl)
  | bind =>
    exact List.forall_mem_cons.mpr
      ⟨raisedByOp_of_find (j := .bind) rfl (stateInv_unboundCore (g := ⟨2, 0, 0, 0⟩) rfl) rfl rfl,
        List.forall_mem_singleton.mpr
          (raisedByOp_of_find (j := .bind) rfl (stateInv_unboundCore (g := ⟨1, 0x100, 0, 0⟩) rfl) rfl rfl)⟩
  | update p present b =>
    exact List.forall_mem_cons.mpr ⟨raisedByOp_of_reset (j := .update p true b) rfl rfl,
      List.forall_mem_singleton.mpr (raisedByOp_of_checksumCore (j := .update p true b) rfl rfl)⟩
  | step | final | unfinal | tread =>
    exact List.forall_mem_cons.mpr ⟨raisedByOp_of_reset rfl rfl,
      List.forall_mem_singleton.mpr (raisedByOp_of_checksumCore rfl rfl)⟩
  | calculate | reservedOpD | reservedOpE | reservedOpF =>
    exact List.forall_mem_singleton.mpr (raisedByOp_of_reset rfl rfl)

theorem opOf_encode (i : Instr) : opOf (encode i) = opNumber i := opOf_of_fitsRow (encode_fitsRow i)

/-- Settles O18: a fault is that of a check of the command, and each is raised in a core after RESET, in one with a
Config that BIND rejects, or in one bound to a Checksum. -/
theorem faultsEachCommandCanRaise : Obligations.FaultsEachCommandCanRaise := by
  refine ⟨fun i s t c hi h hc => mem_raisable_of_fault hi h hc, fun i c hc => ?_⟩
  obtain ⟨j, s, hop, hs, hready, h⟩ := raisedByOp_of_mem_raisable i c hc
  exact ⟨j, s, _, by rw [opOf_encode, opOf_encode, hop], hs, hready, h, rfl⟩

end Sys2Proof.Proofs

namespace Sys2Proof.Proofs

open Sys2Proof.Machine Sys2Proof.Safety Sys2Proof.Laws

/-! ## RESET (70_reset_and_hazards.md R240, R243) -/

/-- Settles O2: the state after RESET does not depend on the state, or on the command, that RESET cuts. -/
theorem resetAbandonsTheCommandInProgress : Obligations.ResetAbandonsTheCommandInProgress :=
  fun _ _ rest hreq => ⟨resetCore rest, step_of_reset hreq, rfl, rfl, rfl, rfl, rfl, rfl, rfl, rfl⟩

/-! ## The unbound core (70_reset_and_hazards.md R245) -/

section Unbound

variable {i : Instr} {s t : State}

/-- The indices 0..3 name the configuration registers, which WRREG writes (20_memory.md R51). -/
theorem exec_wrreg_of_config_index {r : BitVec 4} (hready : s.faulted = false) (hr : r.toNat ≤ 3) :
    ∃ g, exec (.wrreg r) s = .next ((s.loadCfg g).setBinding false false).respondOk := by
  have hindex : r = 0 ∨ r = 1 ∨ r = 2 ∨ r = 3 := by bv_omega
  rcases hindex with rfl | rfl | rfl | rfl <;> exact ⟨_, exec_wrreg_of_written hready rfl rfl⟩

/-- Only BIND and PROFILE set STATUS.BOUND (10_state.md R28). -/
theorem unbound_of_effect (he : Effect s i t) (hbound : s.bound = false) (hbind : i ≠ .bind)
    (hprofile : ∀ k, i ≠ .profile k) : t.bound = false := by
  cases he with
  | refused | nop | value => exact hbound
  | raised _ c => exact (s.raise_bound c).trans hbound
  | written r reg w => exact w.setBinding_bound false false
  | bound => exact absurd rfl hbind
  | profiled k => exact absurd rfl (hprofile k)

theorem exec_of_unbound (hready : s.faulted = false) (hbound : s.bound = false) (hneeds : needsBound i = true) :
    exec i s = .next (s.raise .notBound) := by
  cases i with
  | calculate p => exact exec_calculate_of_unbound hready hbound p
  | update p present b => exact exec_update_of_unbound hready hbound p present b
  | step p b => exact exec_step_of_unbound hready hbound p b
  | final | unfinal => exact checkedAnswer_of_unbound hready _ hbound
  | tread x => exact exec_tread_of_unbound hready hbound x
  | _ => cases hneeds

end Unbound

/-- Settles O30: WRREG's write clears BOUND, only two of the ways a command ends set it, and every computing command
checks it. -/
theorem unboundCoreComputesNothing : Obligations.UnboundCoreComputesNothing := by
  refine ⟨fun s t r hready hr h => ?_, fun i s t hbound hbind hprofile h => ?_, fun i s => exec_of_unbound⟩
  · obtain ⟨g, hg⟩ := exec_wrreg_of_config_index hready hr
    obtain rfl := Host.Outcome.next.inj (hg.symm.trans h)
    exact ⟨(s.loadCfg g).setBinding_bound false false, ((s.loadCfg g).setBinding_faulted false false).trans hready⟩
  · exact unbound_of_effect (effect_of_exec h) hbound hbind hprofile

/-! ## The Config that SETCRC names (30_encoding.md R83) -/

/-- CTRL as SETCRC writes it: KIND = 1, the flags, and WBYTES. -/
def setcrcCtrl (wbytes : Nat) (refin refout refoutb : Bool) : Word :=
  BitVec.ofNat 64 (256 * wbytes + 16 * refoutb.toNat + 8 * refout.toNat + 4 * refin.toNat + 1)

/-- The Config that SETCRC names; its expansion writes and binds it (`map_command_of_expandSetcrc`). -/
def setcrcCfg (wbytes : Nat) (poly init xorout : Word) (refin refout refoutb : Bool) : Cfg :=
  ⟨setcrcCtrl wbytes refin refout refoutb, poly, init, xorout⟩

/-- Every field of CTRL (10_state.md R21 to R24) holds the value it was composed of, and the reserved bits are clear. -/
theorem setcrcCtrl_fields : ∀ wbytes < 8, ∀ refin refout refoutb : Bool,
    let c := setcrcCtrl wbytes refin refout refoutb
    c.extractLsb' 0 2 = 1#2 ∧ c.getLsbD 2 = refin ∧ c.getLsbD 3 = refout ∧ c.getLsbD 4 = refoutb ∧
      (c.extractLsb' 8 3).toNat = wbytes ∧ c &&& ~~~ctrlWritable = 0 := by
  decide

theorem setcrcCfg_fields {wbytes : Nat} (hw : wbytes < 8) (poly init xorout : Word) (refin refout refoutb : Bool) :
    let g := setcrcCfg wbytes poly init xorout refin refout refoutb
    g.kind = 1 ∧ g.refin = refin ∧ g.refout = refout ∧ g.refoutb = refoutb ∧ g.bits = 8 * (wbytes + 1) ∧
      g.ctrl &&& ~~~ctrlWritable = 0 := by
  obtain ⟨hkind, hrefin, hrefout, hrefoutb, hwbytes, hctrl⟩ := setcrcCtrl_fields wbytes hw refin refout refoutb
  exact ⟨hkind, hrefin, hrefout, hrefoutb, congrArg (fun n => 8 * (n + 1)) hwbytes, hctrl⟩

/-- SETCRC's five commands write, register by register, and bind the Config it names (R83). -/
theorem map_command_of_expandSetcrc {wbytes : Nat} {poly init xorout : Word} {refin refout refoutb : Bool}
    {ts : List Transaction} (hw : wbytes < 8)
    (hts : expandSetcrc (8 * (wbytes + 1)) poly init xorout refin refout refoutb = some ts) :
    ts.map HostAction.command = configureCommands (setcrcCfg wbytes poly init xorout refin refout refoutb) := by
  obtain ⟨-, hexpand, -⟩ := pseudoInstructionsExpand
  rw [(hexpand (wbytes + 1) (by omega) hw).2, Option.some_inj] at hts
  rw [← hts]
  rfl

/-- A Crc Config that BIND accepts, written register by register and bound: the core is bound to it with its table
(40_config.md R106). -/
theorem run_configureCommands_crc {s : State} {g : Cfg} (hready : s.faulted = false)
    (hctrl : g.ctrl &&& ~~~ctrlWritable = 0) (hk : g.kind = 1) (hr : g.rangesOk = true) :
    ∃ t, Host.Core.run core 5 { s with requests := configureCommands g } = .next t ∧ t.bound = true ∧
      t.tableValid = true ∧ t.faulted = false ∧ t.resp = some (.ok none) ∧ t.cfg = g ∧
      ∀ d, tableEntryAt t.table d = tableEntry g d := by
  refine ⟨_, run_configureCommands g hready hctrl (by rw [hk]; decide) fun _ => hr, ?_⟩
  simp [hk, hready, buildTable_get]

/-- Settles O32: SETCRC's expansion writes and binds the Config it names, which BIND accepts. -/
theorem setcrcBindsTheNamedConfig : Obligations.SetcrcBindsTheNamedConfig := by
  intro s bytes poly init xorout refin refout refoutb ts hready hlow hhigh hpoly hinit hxorout hts
  obtain ⟨wbytes, rfl⟩ : ∃ wbytes, bytes = wbytes + 1 := ⟨bytes - 1, by omega⟩
  obtain ⟨hkind, hrefin, hrefout, hrefoutb, hbits, hctrl⟩ :=
    setcrcCfg_fields hhigh poly init xorout refin refout refoutb
  have hranges : (setcrcCfg wbytes poly init xorout refin refout refoutb).rangesOk = true := by
    rw [rangesOk_iff, Cfg.le_mask_iff, Cfg.le_mask_iff, Cfg.le_mask_iff, hbits]
    exact ⟨hpoly, hinit, hxorout⟩
  obtain ⟨t, hrun, hbound, hvalid, hfaulted, hresp, hcfg, htable⟩ :=
    run_configureCommands_crc hready hctrl hkind hranges
  rw [map_command_of_expandSetcrc hhigh hts]
  refine ⟨t, hrun, hbound, hvalid, hfaulted, hresp, ?_⟩
  rw [hcfg]
  exact ⟨hkind, hbits, congrArg Cfg.poly hcfg, congrArg Cfg.init hcfg, congrArg Cfg.xorout hcfg, hrefin, hrefout,
    hrefoutb, htable⟩

end Sys2Proof.Proofs
